-- ==== Sys2Proof/Word.lean ====
section
/-! DEFINITION. The value types of 00_scope.md R6: bytes, 32-bit words and byte strings. Every value is unsigned. -/

namespace Sys2Proof

/-- `u8` of R6: one byte of DMEM or of a byte string. -/
abbrev Byte := BitVec 8

/-- `u32` of R6 and R20: a register value or an algorithm word. -/
abbrev Word := BitVec 32

/-- A byte string of R8: byte 0 is the head, and it lies at the lowest DMEM address. -/
abbrev Bytes := List Byte

end Sys2Proof
end

