-- ==== Sys2Proof/Syntax.lean ====
section
/-! DEFINITION. The commands: one constructor per row of opcode_table.json (30_encoding.md R143). No command has an
immediate field (R145), so no constructor has an argument; the hash select of HMAC_INIT and PBKDF2 (R144) is part of
the row, as in the table. -/

namespace Sys2Proof

/-- The command set of R143, in the table's order. -/
inductive Instr where
  -- 40_utilities.md
  | nop
  | zeroize
  | ctCompare
  -- 41_aes_engine.md
  | aesKeyexpEnc
  | aesKeyexpDec
  | aesEncBlock
  | aesDecBlock
  -- 42_aes_modes.md
  | aesCbcEnc
  | aesCbcDec
  | aesCtrEnc
  | aesCtrDec
  | nonceInc
  -- 43_chacha20.md
  | chacha20Block
  | chacha20Enc
  | chacha20Dec
  | hchacha20
  | xchacha20Enc
  | xchacha20Dec
  -- 44_poly1305_aead.md
  | poly1305Init
  | poly1305Add
  | poly1305Close
  | c20p1305Enc
  | c20p1305Dec
  | xc20p1305Enc
  | xc20p1305Dec
  -- 45_hash.md
  | sha256Init
  | sha256Add
  | sha256Close
  | sha512Init
  | sha512Add
  | sha512Close
  | blake2sInit
  | blake2sAdd
  | blake2sClose
  -- 46_hmac_pbkdf2.md
  | hmacInitSha256
  | hmacInitSha512
  | hmacInitBlake2s
  | hmacAdd
  | hmacClose
  | pbkdf2Sha256
  | pbkdf2Sha512
  | pbkdf2Blake2s
deriving DecidableEq, Repr

end Sys2Proof
end

