-- ==== Sys2Proof/WellFormed.lean ====
section
/-! DEFINITION. The format of a command word (30_encoding.md R141) and the checks that make one legal (R142, R147). A
command has no operand of its own, so what can be ill-formed is the word: its three fields. -/

namespace Sys2Proof

/-- Format C, the only format (R141). -/
structure CmdFields where
  /-- bits 31:10, reserved -/
  rsv : BitVec 22
  /-- bits 9:8, hash select -/
  hsel : BitVec 2
  /-- bits 7:0, operation code -/
  opc : BitVec 8
deriving DecidableEq, Repr

/-- R142: RSV = 0. -/
def CmdFields.rsvClear (f : CmdFields) : Bool := f.rsv == 0

/-- R143: the assigned operation codes. -/
def assignedOpcodes : List (BitVec 8) :=
  [0x00, 0x01, 0x02] ++ [0x10, 0x11, 0x12, 0x13] ++ [0x20, 0x21, 0x22, 0x23, 0x24] ++
  [0x30, 0x31, 0x32, 0x33, 0x34, 0x35] ++ [0x40, 0x41, 0x42, 0x44, 0x45, 0x46, 0x47] ++
  [0x50, 0x51, 0x52, 0x54, 0x55, 0x56, 0x58, 0x59, 0x5A] ++ [0x60, 0x61, 0x62, 0x64]

/-- R142: OPC is one of the values of R143. -/
def CmdFields.opcAssigned (f : CmdFields) : Bool := assignedOpcodes.contains f.opc

/-- R144: HSEL = 3 selects no hash. -/
def CmdFields.hselDefined (f : CmdFields) : Bool := f.hsel != 3

/-- R141: HSEL is 0 except for HMAC_INIT (0x60) and PBKDF2 (0x64). -/
def CmdFields.hselUsed (f : CmdFields) : Bool := f.hsel == 0 || f.opc == 0x60 || f.opc == 0x64

/-- R142: a CMD value is legal. -/
def CmdFields.legal (f : CmdFields) : Bool :=
  f.rsvClear && f.opcAssigned && f.hselDefined && f.hselUsed

end Sys2Proof
end

