-- ==== Sys2Proof/Decode.lean ====
section
/-! DEFINITION. Reading a command word (30_encoding.md R140 to R148) and, after it, writing one. The decoder is total
and rejects by name; the encoder is written from the same table. -/

namespace Sys2Proof

/-- Why a CMD value is illegal (R142, R147). The machine reports each of them as IllegalCommand. -/
inductive DecodeError where
  /-- RSV (bits 31:10) is not 0 -/
  | reservedBits
  /-- OPC (bits 7:0) is not assigned -/
  | unassignedOpcode
  /-- HSEL = 3 -/
  | reservedHsel
  /-- HSEL is not 0 on a command that selects no hash -/
  | unusedHsel
deriving DecidableEq, Repr

/-- R140: OPC = CMD[7:0], HSEL = CMD[9:8], RSV = CMD[31:10]. -/
def CmdFields.ofWord (w : Word) : CmdFields where
  rsv := w.extractLsb' 10 22
  hsel := w.extractLsb' 8 2
  opc := w.extractLsb' 0 8

/-- The word with the given fields (R141). -/
def CmdFields.toWord (f : CmdFields) : Word := f.rsv ++ f.hsel ++ f.opc

/-- opcode_table.json: the rows' `match` values (every row's mask is all ones) with the command each stands for. -/
def opcodeTable : List (Word × Instr) :=
  [(0x00000000#32, .nop), (0x00000001#32, .zeroize), (0x00000002#32, .ctCompare),
   (0x00000010#32, .aesKeyexpEnc), (0x00000011#32, .aesKeyexpDec), (0x00000012#32, .aesEncBlock), (0x00000013#32, .aesDecBlock),
   (0x00000020#32, .aesCbcEnc), (0x00000021#32, .aesCbcDec), (0x00000022#32, .aesCtrEnc), (0x00000023#32, .aesCtrDec),
   (0x00000024#32, .nonceInc),
   (0x00000030#32, .chacha20Block), (0x00000031#32, .chacha20Enc), (0x00000032#32, .chacha20Dec), (0x00000033#32, .hchacha20),
   (0x00000034#32, .xchacha20Enc), (0x00000035#32, .xchacha20Dec),
   (0x00000040#32, .poly1305Init), (0x00000041#32, .poly1305Add), (0x00000042#32, .poly1305Close),
   (0x00000044#32, .c20p1305Enc), (0x00000045#32, .c20p1305Dec), (0x00000046#32, .xc20p1305Enc), (0x00000047#32, .xc20p1305Dec),
   (0x00000050#32, .sha256Init), (0x00000051#32, .sha256Add), (0x00000052#32, .sha256Close),
   (0x00000054#32, .sha512Init), (0x00000055#32, .sha512Add), (0x00000056#32, .sha512Close),
   (0x00000058#32, .blake2sInit), (0x00000059#32, .blake2sAdd), (0x0000005A#32, .blake2sClose),
   (0x00000060#32, .hmacInitSha256), (0x00000160#32, .hmacInitSha512), (0x00000260#32, .hmacInitBlake2s),
   (0x00000061#32, .hmacAdd), (0x00000062#32, .hmacClose),
   (0x00000064#32, .pbkdf2Sha256), (0x00000164#32, .pbkdf2Sha512), (0x00000264#32, .pbkdf2Blake2s)]

/-- The name of the first check of R142 that an illegal word fails (DESIGN CHOICE, log entry 15). -/
def rejectReason (f : CmdFields) : DecodeError :=
  if f.rsvClear = false then .reservedBits
  else if f.opcAssigned = false then .unassignedOpcode
  else if f.hselDefined = false then .reservedHsel
  else .unusedHsel

/-- R140, R142: the command a CMD value stands for, or why there is none. -/
def decode (w : Word) : Except DecodeError Instr :=
  match opcodeTable.lookup w with
  | some i => .ok i
  | none => .error (rejectReason (CmdFields.ofWord w))

/-- The fields of a command's word (R143, R144). -/
def encodeFields : Instr → CmdFields
  | .nop => ⟨0, 0, 0x00⟩
  | .zeroize => ⟨0, 0, 0x01⟩
  | .ctCompare => ⟨0, 0, 0x02⟩
  | .aesKeyexpEnc => ⟨0, 0, 0x10⟩
  | .aesKeyexpDec => ⟨0, 0, 0x11⟩
  | .aesEncBlock => ⟨0, 0, 0x12⟩
  | .aesDecBlock => ⟨0, 0, 0x13⟩
  | .aesCbcEnc => ⟨0, 0, 0x20⟩
  | .aesCbcDec => ⟨0, 0, 0x21⟩
  | .aesCtrEnc => ⟨0, 0, 0x22⟩
  | .aesCtrDec => ⟨0, 0, 0x23⟩
  | .nonceInc => ⟨0, 0, 0x24⟩
  | .chacha20Block => ⟨0, 0, 0x30⟩
  | .chacha20Enc => ⟨0, 0, 0x31⟩
  | .chacha20Dec => ⟨0, 0, 0x32⟩
  | .hchacha20 => ⟨0, 0, 0x33⟩
  | .xchacha20Enc => ⟨0, 0, 0x34⟩
  | .xchacha20Dec => ⟨0, 0, 0x35⟩
  | .poly1305Init => ⟨0, 0, 0x40⟩
  | .poly1305Add => ⟨0, 0, 0x41⟩
  | .poly1305Close => ⟨0, 0, 0x42⟩
  | .c20p1305Enc => ⟨0, 0, 0x44⟩
  | .c20p1305Dec => ⟨0, 0, 0x45⟩
  | .xc20p1305Enc => ⟨0, 0, 0x46⟩
  | .xc20p1305Dec => ⟨0, 0, 0x47⟩
  | .sha256Init => ⟨0, 0, 0x50⟩
  | .sha256Add => ⟨0, 0, 0x51⟩
  | .sha256Close => ⟨0, 0, 0x52⟩
  | .sha512Init => ⟨0, 0, 0x54⟩
  | .sha512Add => ⟨0, 0, 0x55⟩
  | .sha512Close => ⟨0, 0, 0x56⟩
  | .blake2sInit => ⟨0, 0, 0x58⟩
  | .blake2sAdd => ⟨0, 0, 0x59⟩
  | .blake2sClose => ⟨0, 0, 0x5A⟩
  | .hmacInitSha256 => ⟨0, 0, 0x60⟩
  | .hmacInitSha512 => ⟨0, 1, 0x60⟩
  | .hmacInitBlake2s => ⟨0, 2, 0x60⟩
  | .hmacAdd => ⟨0, 0, 0x61⟩
  | .hmacClose => ⟨0, 0, 0x62⟩
  | .pbkdf2Sha256 => ⟨0, 0, 0x64⟩
  | .pbkdf2Sha512 => ⟨0, 1, 0x64⟩
  | .pbkdf2Blake2s => ⟨0, 2, 0x64⟩

/-- The CMD value of a command: what `exec MNEMONIC` writes (R162). -/
def encode (i : Instr) : Word := (encodeFields i).toWord

/-- A command is well-formed when its word is legal (R142). -/
def Instr.wellFormed (i : Instr) : Bool := (encodeFields i).legal

/-- The command whose word has the bits `w`, numbered as opcode_table.json numbers them: a command is one 32-bit value
(R148), so there is nothing to lay out and a number past 32 bits is no command word. -/
def decodeTableWord (_nbits w : Nat) : Option Instr :=
  if w < 2 ^ 32 then
    match decode (BitVec.ofNat 32 w) with
    | .ok i => some i
    | .error _ => none
  else none

end Sys2Proof
end

