-- ==== Sys2Proof/Machine/Bytes.lean ====
section
/-! DEFINITION. Byte strings, word packing and the padding and comparison helpers: 00_scope.md R8 to R10 and
40_utilities.md R180 to R186. All of them are pure functions (R180). -/

namespace Sys2Proof.Machine

/-- `rep(v, n)` of R8. -/
def rep (v : Byte) (n : Nat) : Bytes := List.replicate n v

/-- `zeros(n)` of R8. -/
def zeros (n : Nat) : Bytes := rep 0 n

/-- The byte-wise exclusive or of R10; the strings have equal lengths, or the longer one's prefix is meant. -/
def xorBytes (a b : Bytes) : Bytes := List.zipWith (fun x y => x ^^^ y) a b

/-- `b[i ..< i + n]` of R8. -/
def slice (b : Bytes) (i n : Nat) : Bytes := (b.drop i).take n

/-- `LEint(b)` of R9: the little-endian integer of all of b. -/
def leInt : Bytes → Nat
  | [] => 0
  | x :: b => x.toNat + 256 * leInt b

/-- `BEint(b)` (42_aes_modes.md R274): the big-endian integer of all of b. -/
def beInt (b : Bytes) : Nat := leInt b.reverse

/-- `toLEn(v, n)` of R9: the n low bytes of v, least significant first. -/
def toLe : Nat → Nat → Bytes
  | _, 0 => []
  | v, n + 1 => BitVec.ofNat 8 v :: toLe (v / 256) n

/-- The n low bytes of v, most significant first: `toBE32`, `toBE64` and `toBE128` of R9 for n = 4, 8, 16. -/
def toBe (v n : Nat) : Bytes := (toLe v n).reverse

/-- `BE32(b, i)` of R9. -/
def be32 (b : Bytes) (i : Nat) : Word := BitVec.ofNat 32 (beInt (slice b i 4))

/-- `LE32(b, i)` of R9. -/
def le32 (b : Bytes) (i : Nat) : Word := BitVec.ofNat 32 (leInt (slice b i 4))

/-- `BE64(b, i)` of R9. -/
def be64 (b : Bytes) (i : Nat) : BitVec 64 := BitVec.ofNat 64 (beInt (slice b i 8))

/-- `toBE32(w)` of R9. -/
def toBe32 (w : Word) : Bytes := toBe w.toNat 4

/-- `toLE32(w)` of R9. -/
def toLe32 (w : Word) : Bytes := toLe w.toNat 4

/-- `toBE64(w)` of R9. -/
def toBe64 (w : BitVec 64) : Bytes := toBe w.toNat 8

/-- `toLE64(v)` of R9. -/
def toLe64 (v : Nat) : Bytes := toLe v 8

/-- `ceil(a/b)` of R14. -/
def ceilDiv (a b : Nat) : Nat := (a + b - 1) / b

/-- The first k pieces of n bytes of b, in order. -/
def pieces (n : Nat) : Nat → Bytes → List Bytes
  | 0, _ => []
  | k + 1, b => b.take n :: pieces n k (b.drop n)

/-- b cut into pieces of n bytes, the last one possibly shorter: `b[nj ..< min(nj+n, |b|)]` for `j` below `ceil(|b|/n)`
(42_aes_modes.md R275, 44_poly1305_aead.md R353). -/
def chunks (n : Nat) (b : Bytes) : List Bytes := pieces n (ceilDiv b.length n) b

/-- PKCS#7 padding (R183). -/
def pad7 (m : Bytes) : Bytes :=
  let p := 16 - m.length % 16
  m ++ rep (BitVec.ofNat 8 p) p

/-- PKCS#7 verification and stripping (R184); `none` is InvalidPadding. -/
def unpad7 (d : Bytes) : Option Bytes :=
  let p := (d.getLastD 0).toNat
  if p = 0 ∨ p > 16 then none
  else if p > d.length then none
  else if (d.drop (d.length - p)).all (fun x => x.toNat == p) then some (d.take (d.length - p))
  else none

/-- Zero padding to a multiple of 16 bytes (R185). -/
def pad16 (b : Bytes) : Bytes := b ++ zeros ((16 - b.length % 16) % 16)

/-- Constant-time equality (R186): every byte is examined, whatever the position of the first difference. -/
def ctEq (a b : Bytes) : Bool :=
  decide (a.length = b.length) && (xorBytes a b).foldl (fun d x => d ||| x) 0 == 0

end Sys2Proof.Machine
end

