-- ==== Sys2Proof/Config.lean ====
section
/-! DEFINITION. The implementation parameters of 00_scope.md R5, carried by the machine as an argument (log entry 2),
and the free values: what the spec leaves open and no definition here gives a value to (log entries 4 and 5). -/

namespace Sys2Proof

/-- `CTR_NONCE_LENS` (R5, D29): the NONCE_LEN values that AES-CTR accepts. -/
inductive CtrNonceLens where
  | only12
  | only16
  | both
deriving DecidableEq, Repr

/-- `CTR_COUNTER_BITS` (R5, D30): the width of the AES-CTR counter field. -/
inductive CtrCounterBits where
  | bits32
  | bits128
deriving DecidableEq, Repr

/-- The parameters of R5 a model takes as arguments. `CMD_LATENCY` is not among them: it may vary from command to
command, so it is the free value `Config.cmdLatency`. -/
structure Params where
  /-- `DMEM_SIZE`: bytes of local data memory, 64 to 65536 -/
  dmemSize : Nat
  ctrNonceLens : CtrNonceLens
  ctrCounterBits : CtrCounterBits
  /-- `CORE_BASE` (R102): where the register map starts in the host's address space -/
  coreBase : Nat
deriving DecidableEq, Repr

/-- The defaults of R5. R5 leaves CORE_BASE to the platform: 0 here is a DESIGN CHOICE (log entry 3). -/
def Params.default : Params where
  dmemSize := 65536
  ctrNonceLens := .both
  ctrCounterBits := .bits32
  coreBase := 0

/-- The allowed range of R5. -/
def Params.wf (p : Params) : Bool := decide (64 ≤ p.dmemSize ∧ p.dmemSize ≤ 65536)

/-- `CMD_LATENCY` (R5, R550): free value. An accepted command completes `Config.cmdLatency n + 1` steps after its
CMD write, for the draw number `n` the state holds then; nothing constrains it. -/
opaque Config.cmdLatency : Nat → Nat

/-- The unspecified value of a host DMEM read while BUSY (R522, R523): free value, a fresh draw for each read,
at most 32 bits of which the read takes its width. -/
opaque Config.busyDmemRead : Nat → Word

end Sys2Proof
end

