-- ==== Sys2Proof/Machine/HostProgram.lean ====
section
/-! DEFINITION. What the host agent (92_eei_decisions.md D2) still has to do, as plain data: the host accesses of
30_encoding.md R160 and R165, each naming a register-map offset (20_memory.md R102). -/

namespace Sys2Proof.Machine

/-- The width of a host access (10_state.md R52, 20_memory.md R103). -/
inductive Width where
  | w8
  | w16
  | w32
deriving DecidableEq, Repr

/-- One thing the host does next. -/
inductive HostOp where
  /-- a read access: `(read, offset, width)` of R165 -/
  | read (w : Width) (offset : Nat)
  /-- a write access: `(write, offset, width, value)` of R165; an 8- or 16-bit write takes the value's low bits -/
  | write (w : Width) (offset : Nat) (value : Word)
  /-- `check` and `checkmem` of R160: a read whose value the script asserts -/
  | expect (w : Width) (offset : Nat) (value : Word)
  /-- `wait` of R160: 32-bit reads of STATUS until BUSY = 0; when the last of them shows ERR = 1, the next `skip`
  things are left out (a pseudo-command stops at its first failing step, R164) -/
  | wait (skip : Nat)
deriving DecidableEq, Repr

end Sys2Proof.Machine
end

