-- ==== Sys2Proof/Machine/State.lean ====
section
/-! DEFINITION. The architectural state of 10_state.md as plain data, and its value after reset (10_state.md R70). -/

namespace Sys2Proof.Machine

/-- DMEM (20_memory.md R100): the bytes that differ from what an unlisted address reads as, at strictly rising
addresses (`Memory.wf` in Machine/Ops.lean). -/
abbrev Memory := List Host.Cell

/-- The error codes of 60_exceptions.md R470, by name. -/
inductive ErrCode where
  | success
  | illegalCommand
  | addressError
  | invalidKeyLength
  | invalidNonceLength
  | invalidOffset
  | bufferTooShort
  | invalidPadding
  | authenticationFailure
  | unsupportedOperation
  | invalidArgument
  | keyNotLoaded
  | sinkNotOpen
deriving DecidableEq, Repr

/-- The operand registers at offsets 0x020 to 0x058 (R39 to R44, R47 to R49). -/
structure OperandRegs where
  keyAddr : Word
  keyLen : Word
  nonceAddr : Word
  nonceLen : Word
  aadAddr : Word
  aadLen : Word
  srcAddr : Word
  srcLen : Word
  dstAddr : Word
  dstLen : Word
  tagAddr : Word
  ksiLo : Word
  ksiHi : Word
  arg : Word
  iter : Word
deriving DecidableEq, Repr

/-- The reset value of every operand register (R70). -/
def OperandRegs.zero : OperandRegs := ⟨0, 0, 0, 0, 0, 0, 0, 0, 0, 0, 0, 0, 0, 0, 0⟩

/-- The snapshot of R59: CMD and the operand registers as they were when the CMD write was accepted. -/
structure Snapshot where
  cmd : Word
  ops : OperandRegs
deriving DecidableEq, Repr

/-- The core phase of R59. `left` is the model's own: how many steps pass before the completion step (R550). -/
inductive Phase where
  | idle
  | busy (snap : Snapshot) (left : Nat)
deriving DecidableEq, Repr

/-- KSE_NR and KSD_NR of R53, the number of rounds of a loaded schedule: 0, 10, 12 or 14. -/
inductive Rounds where
  | unloaded
  | ten
  | twelve
  | fourteen
deriving DecidableEq, Repr

/-- An AES key schedule register array with its round count (R53). -/
structure Schedule where
  nr : Rounds
  words : Vector Word 60
deriving DecidableEq, Repr

/-- "No schedule loaded" of R53: NR = 0 and every word 0. -/
def Schedule.unloaded : Schedule := ⟨.unloaded, Vector.replicate 60 0⟩

/-- Eight chaining words, H[0..7] or h[0..7] (R54 to R56). -/
structure Hash8 (w : Nat) where
  h0 : BitVec w
  h1 : BitVec w
  h2 : BitVec w
  h3 : BitVec w
  h4 : BitVec w
  h5 : BitVec w
  h6 : BitVec w
  h7 : BitVec w
deriving DecidableEq, Repr

/-- The all-zero chaining words of a closed context. -/
def Hash8.zero (w : Nat) : Hash8 w := ⟨0, 0, 0, 0, 0, 0, 0, 0⟩

/-- The fields of ctx.SHA256 (R54, w = 32) and ctx.SHA512 (R55, w = 64) without `open`. -/
structure Sha2Ctx (w : Nat) where
  h : Hash8 w
  buf : Bytes
  total : Nat
deriving DecidableEq, Repr

/-- The fields of ctx.BLAKE2S (R56) without `open`. -/
structure Blake2sCtx where
  h : Hash8 32
  buf : Bytes
  t : Nat
deriving DecidableEq, Repr

/-- The fields of ctx.POLY1305 (R57) without `open`. -/
structure Poly1305Ctx where
  r : BitVec 128
  s : BitVec 128
  acc : Nat
  buf : Bytes
deriving DecidableEq, Repr

/-- A hash context of one of the three kinds: the `inner` of ctx.HMAC (R58). The kind is `hsel`. -/
inductive HashCtx where
  /-- hsel = 0 -/
  | sha256 (c : Sha2Ctx 32)
  /-- hsel = 1 -/
  | sha512 (c : Sha2Ctx 64)
  /-- hsel = 2 -/
  | blake2s (c : Blake2sCtx)
deriving DecidableEq, Repr

/-- The fields of ctx.HMAC (R58) without `open`; `hsel` is the kind of `inner`. -/
structure HmacCtx where
  inner : HashCtx
  okey : Bytes
deriving DecidableEq, Repr

/-- A sink context: its `open` bit and its fields (R54 to R58). -/
structure Sink (α : Type) where
  isOpen : Bool
  ctx : α
deriving DecidableEq, Repr

/-- The closed value of ctx.SHA256 and ctx.SHA512 (R54, R55). -/
def Sha2Ctx.zero (w : Nat) : Sha2Ctx w := ⟨Hash8.zero w, [], 0⟩

/-- The closed value of ctx.BLAKE2S (R56). -/
def Blake2sCtx.zero : Blake2sCtx := ⟨Hash8.zero 32, [], 0⟩

/-- The closed value of ctx.POLY1305 (R57). -/
def Poly1305Ctx.zero : Poly1305Ctx := ⟨0, 0, 0, []⟩

/-- The closed value of ctx.HMAC (R58): hsel 0, everything 0, okey empty. -/
def HmacCtx.zero : HmacCtx := ⟨.sha256 (Sha2Ctx.zero 32), []⟩

/-- A closed sink whose fields hold the given closed value. -/
def Sink.closed {α : Type} (zero : α) : Sink α := ⟨false, zero⟩

/-- The machine. The fields up to `dmem` are the spec's; `params` is the argument of R5; the last four are the model's
own (log entries 4 to 6): the host's agenda, what its last read returned, whether an assertion of its script failed,
and the number of the next free value. -/
structure State where
  /-- the parameters of 00_scope.md R5; no step changes them -/
  params : Params
  /-- CTRL.IRQ_EN (R32) -/
  irqEn : Bool
  /-- STATUS.DONE (R33) -/
  done : Bool
  /-- STATUS.ERR (R33) -/
  err : Bool
  /-- STATUS.EQ (R33) -/
  eqFlag : Bool
  /-- STATUS.WERR (R33) -/
  werr : Bool
  /-- ERRCODE (R35) -/
  errcode : ErrCode
  /-- CMD (R36) -/
  cmd : Word
  /-- OUT_LEN (R37) -/
  outLen : Word
  /-- the operand registers (R39 to R49) -/
  ops : OperandRegs
  /-- KSE[0..59] and KSE_NR (R53) -/
  kse : Schedule
  /-- KSD[0..59] and KSD_NR (R53) -/
  ksd : Schedule
  /-- ctx.SHA256 (R54) -/
  sha256 : Sink (Sha2Ctx 32)
  /-- ctx.SHA512 (R55) -/
  sha512 : Sink (Sha2Ctx 64)
  /-- ctx.BLAKE2S (R56) -/
  blake2s : Sink Blake2sCtx
  /-- ctx.POLY1305 (R57) -/
  poly1305 : Sink Poly1305Ctx
  /-- ctx.HMAC (R58) -/
  hmac : Sink HmacCtx
  /-- the core phase (R59); STATUS.BUSY = 1 exactly when it is busy -/
  phase : Phase
  /-- DMEM (20_memory.md R100) -/
  dmem : Memory
  /-- what the host still has to do, first thing first (30_encoding.md R160) -/
  host : List HostOp
  /-- the value the host's last read returned, zero-extended -/
  hostData : Word
  /-- an assertion of the host's script (`check`, `checkmem`) has failed -/
  checkFailed : Bool
  /-- the number of the next free value -/
  draws : Nat
deriving DecidableEq, Repr

/-- A fault of the machine. 60_exceptions.md R513 and 93_implementation_defined.md I21: "no state of the core is a
fault", so there is none to name and no step ends in one. -/
inductive Fault where
deriving DecidableEq, Repr

/-- A refusal of the model. -/
inductive Refusal where
  /-- Raised by an arm of `exec` whose command has no meaning yet; safe, since the machine would go on. No arm
  raises it: every command of the table has its meaning, and an illegal command completes with IllegalCommand. -/
  | notModelled (mnemonic : String)
deriving DecidableEq, Repr

/-- The state after a power-on reset (R70, R520) of a core with the given parameters, whose DMEM holds the draw
`dmem` (20_memory.md R115). The model's own fields start empty (DESIGN CHOICE, log entry 6). -/
def State.powerOn (params : Params) (dmem : Memory) : State where
  params := params
  irqEn := false
  done := false
  err := false
  eqFlag := false
  werr := false
  errcode := .success
  cmd := 0
  outLen := 0
  ops := .zero
  kse := .unloaded
  ksd := .unloaded
  sha256 := .closed (.zero 32)
  sha512 := .closed (.zero 64)
  blake2s := .closed .zero
  poly1305 := .closed .zero
  hmac := .closed .zero
  phase := .idle
  dmem := dmem
  host := []
  hostData := 0
  checkFailed := false
  draws := 0

/-- The machine right after reset: the default parameters of R5, nothing listed in DMEM. -/
def State.reset : State := State.powerOn Params.default []

end Sys2Proof.Machine
end

