-- ==== Sys2Proof/Machine/AesCipher.lean ====
section
/-! DEFINITION. The AES cipher: GF(2^8) arithmetic (40_utilities.md R181, R182) and the tables, key schedules and block
transforms of 41_aes_engine.md R220 to R233. Pure functions: the commands are in Machine/AesBlock.lean and
Machine/AesModes.lean. -/

namespace Sys2Proof.Machine

/-- `xtime(a)` of R181: multiplication by x modulo x^8 + x^4 + x^3 + x + 1. -/
def xtime (a : Byte) : Byte := if a.getLsbD 7 then (a <<< 1) ^^^ 0x1B else a <<< 1

/-- The loop of R182, `n` bits of `b` still to come. -/
def gmulLoop : Nat → Byte → Byte → Byte → Byte
  | 0, _, _, r => r
  | n + 1, a, b, r => gmulLoop n (xtime a) (b >>> 1) (if b.getLsbD 0 then r ^^^ a else r)

/-- `a • b`, the GF(2^8) product of R182: eight turns of its loop empty every byte. -/
def gmul (a b : Byte) : Byte := gmulLoop 8 a b 0

/-- An entry of a 256-byte table given as sixteen rows of sixteen bytes, as R221 and R222 print theirs. -/
def gridEntry (rows : List (BitVec 128)) (x : Byte) : Byte :=
  (rows.getD (x.toNat / 16) 0).extractLsb' (8 * (15 - x.toNat % 16)) 8

/-- The S-box S of R221, row by row. -/
def sboxRows : List (BitVec 128) :=
  [0x637c777bf26b6fc53001672bfed7ab76#128,
   0xca82c97dfa5947f0add4a2af9ca472c0#128,
   0xb7fd9326363ff7cc34a5e5f171d83115#128,
   0x04c723c31896059a071280e2eb27b275#128,
   0x09832c1a1b6e5aa0523bd6b329e32f84#128,
   0x53d100ed20fcb15b6acbbe394a4c58cf#128,
   0xd0efaafb434d338545f9027f503c9fa8#128,
   0x51a3408f929d38f5bcb6da2110fff3d2#128,
   0xcd0c13ec5f974417c4a77e3d645d1973#128,
   0x60814fdc222a908846eeb814de5e0bdb#128,
   0xe0323a0a4906245cc2d3ac629195e479#128,
   0xe7c8376d8dd54ea96c56f4ea657aae08#128,
   0xba78252e1ca6b4c6e8dd741f4bbd8b8a#128,
   0x703eb5664803f60e613557b986c11d9e#128,
   0xe1f8981169d98e949b1e87e9ce5528df#128,
   0x8ca1890dbfe6426841992d0fb054bb16#128]

/-- The inverse S-box Si of R222, row by row. -/
def invSboxRows : List (BitVec 128) :=
  [0x52096ad53036a538bf40a39e81f3d7fb#128,
   0x7ce339829b2fff87348e4344c4dee9cb#128,
   0x547b9432a6c2233dee4c950b42fac34e#128,
   0x082ea16628d924b2765ba2496d8bd125#128,
   0x72f8f66486689816d4a45ccc5d65b692#128,
   0x6c704850fdedb9da5e154657a78d9d84#128,
   0x90d8ab008cbcd30af7e45805b8b34506#128,
   0xd02c1e8fca3f0f02c1afbd0301138a6b#128,
   0x3a9111414f67dcea97f2cfcef0b4e673#128,
   0x96ac7422e7ad3585e2f937e81c75df6e#128,
   0x47f11a711d29c5896fb7620eaa18be1b#128,
   0xfc563e4bc6d279209adbc0fe78cd5af4#128,
   0x1fdda8338807c731b11210592780ec5f#128,
   0x60517fa919b54a0d2de57a9f93c99cef#128,
   0xa0e03b4dae2af5b0c8ebbb3c83539961#128,
   0x172b047eba77d626e169146355210c7d#128]

/-- `S[x]` of R221. -/
def sbox (x : Byte) : Byte := gridEntry sboxRows x

/-- `Si[x]` of R222. -/
def invSbox (x : Byte) : Byte := gridEntry invSboxRows x

/-- `Rcon[j]` of R223, for j = 1 .. 10. -/
def rcon (j : Nat) : Byte := [0x01#8, 0x02, 0x04, 0x08, 0x10, 0x20, 0x40, 0x80, 0x1B, 0x36].getD (j - 1) 0

/-- A word of four bytes, the most significant first. -/
def ofBytes (b3 b2 b1 b0 : Byte) : Word := b3 ++ b2 ++ b1 ++ b0

/-- `w[31:24]`. -/
def byte3 (w : Word) : Byte := w.extractLsb' 24 8

/-- `w[23:16]`. -/
def byte2 (w : Word) : Byte := w.extractLsb' 16 8

/-- `w[15:8]`. -/
def byte1 (w : Word) : Byte := w.extractLsb' 8 8

/-- `w[7:0]`. -/
def byte0 (w : Word) : Byte := w.extractLsb' 0 8

/-- `E1[x]` of R224; `E2`, `E3` and `E4` are its rotations by 8, 16 and 24. -/
def tableE1 (x : Byte) : Word := ofBytes (gmul 0x02 (sbox x)) (sbox x) (sbox x) (gmul 0x03 (sbox x))

/-- `D1[x]` of R225; `D2`, `D3` and `D4` are its rotations by 8, 16 and 24. -/
def tableD1 (x : Byte) : Word :=
  ofBytes (gmul 0x0E (invSbox x)) (gmul 0x09 (invSbox x)) (gmul 0x0D (invSbox x)) (gmul 0x0B (invSbox x))

/-- `U1[x]` of R226; `U2`, `U3` and `U4` are its rotations by 8, 16 and 24. -/
def tableU1 (x : Byte) : Word := ofBytes (gmul 0x0E x) (gmul 0x09 x) (gmul 0x0D x) (gmul 0x0B x)

/-- The four-table lookup of R226, R230 and R231: table 1 at the first byte, its rotations by 8, 16 and 24 at the
others. -/
def lookup4 (table : Byte → Word) (x1 x2 x3 x4 : Byte) : Word :=
  table x1 ^^^ (table x2).rotateRight 8 ^^^ (table x3).rotateRight 16 ^^^ (table x4).rotateRight 24

/-- `InvMixWord(t)` of R226. -/
def invMixWord (t : Word) : Word := lookup4 tableU1 (byte3 t) (byte2 t) (byte1 t) (byte0 t)

/-- `SubWord(t)` of R228. -/
def subWord (t : Word) : Word := ofBytes (sbox (byte3 t)) (sbox (byte2 t)) (sbox (byte1 t)) (sbox (byte0 t))

/-- What the loop of R228 does to w[i-1] before the exclusive or with w[i-Nk]. -/
def expandTemp (nk i : Nat) (t : Word) : Word :=
  if i % nk = 0 then subWord (t.rotateLeft 8) ^^^ ofBytes (rcon (i / nk)) 0 0 0
  else if nk = 8 ∧ i % nk = 4 then subWord t
  else t

/-- The loop of R228: `n` words still to come, the next one w[i]; `ws` holds w[i-1], w[i-2], ... -/
def expandLoop (nk : Nat) : Nat → Nat → List Word → List Word
  | 0, _, ws => ws
  | n + 1, i, ws => expandLoop nk n (i + 1) ((ws.getD (nk - 1) 0 ^^^ expandTemp nk i (ws.headD 0)) :: ws)

/-- Nk of R220: the key length in words. -/
def keyNk (key : Bytes) : Nat := key.length / 4

/-- Nr of R220. -/
def keyNr (key : Bytes) : Nat := keyNk key + 6

/-- `KeyExpansion(key)` of R228: w[0 .. 4·(Nr+1) - 1]. -/
def keyExpansion (key : Bytes) : List Word :=
  let nk := keyNk key
  let first := (List.range nk).map (fun i => be32 key (4 * i))
  (expandLoop nk (4 * (keyNr key + 1) - nk) nk first.reverse).reverse

/-- Word `4·r + j` of `DecSchedule(key)` (R229), from the words of KeyExpansion. -/
def decWord (w : List Word) (nr r j : Nat) : Word :=
  let t := w.getD (4 * (nr - r) + j) 0
  if 1 ≤ r ∧ r ≤ nr - 1 then invMixWord t else t

/-- `DecSchedule(key)` of R229. -/
def decSchedule (key : Bytes) : List Word :=
  let w := keyExpansion key
  let nr := keyNr key
  (List.range (nr + 1)).flatMap (fun r => (List.range 4).map (fun j => decWord w nr r j))

/-- The four state words t[0..3] of R230 and R231. -/
structure AesState where
  t0 : Word
  t1 : Word
  t2 : Word
  t3 : Word
deriving DecidableEq, Repr

/-- The block as four big-endian words, exclusive-or'd with the first four schedule words (R230, R231). -/
def aesFirst (k : List Word) (blk : Bytes) : AesState :=
  ⟨be32 blk 0 ^^^ k.getD 0 0, be32 blk 4 ^^^ k.getD 1 0, be32 blk 8 ^^^ k.getD 2 0, be32 blk 12 ^^^ k.getD 3 0⟩

/-- One middle round of R230: byte 3 of word i, byte 2 of word i+1, byte 1 of word i+2, byte 0 of word i+3. -/
def encRound (k : List Word) (t : AesState) (r : Nat) : AesState where
  t0 := lookup4 tableE1 (byte3 t.t0) (byte2 t.t1) (byte1 t.t2) (byte0 t.t3) ^^^ k.getD (4 * r) 0
  t1 := lookup4 tableE1 (byte3 t.t1) (byte2 t.t2) (byte1 t.t3) (byte0 t.t0) ^^^ k.getD (4 * r + 1) 0
  t2 := lookup4 tableE1 (byte3 t.t2) (byte2 t.t3) (byte1 t.t0) (byte0 t.t1) ^^^ k.getD (4 * r + 2) 0
  t3 := lookup4 tableE1 (byte3 t.t3) (byte2 t.t0) (byte1 t.t1) (byte0 t.t2) ^^^ k.getD (4 * r + 3) 0

/-- One middle round of R231: byte 3 of word i, byte 2 of word i+3, byte 1 of word i+2, byte 0 of word i+1. -/
def decRound (k : List Word) (t : AesState) (r : Nat) : AesState where
  t0 := lookup4 tableD1 (byte3 t.t0) (byte2 t.t3) (byte1 t.t2) (byte0 t.t1) ^^^ k.getD (4 * r) 0
  t1 := lookup4 tableD1 (byte3 t.t1) (byte2 t.t0) (byte1 t.t3) (byte0 t.t2) ^^^ k.getD (4 * r + 1) 0
  t2 := lookup4 tableD1 (byte3 t.t2) (byte2 t.t1) (byte1 t.t0) (byte0 t.t3) ^^^ k.getD (4 * r + 2) 0
  t3 := lookup4 tableD1 (byte3 t.t3) (byte2 t.t2) (byte1 t.t1) (byte0 t.t0) ^^^ k.getD (4 * r + 3) 0

/-- Four output bytes of the last round: substituted bytes exclusive-or'd with a schedule word (R230, R231). -/
def lastWord (sub : Byte → Byte) (b3 b2 b1 b0 : Byte) (k : Word) : Bytes :=
  [sub b3 ^^^ byte3 k, sub b2 ^^^ byte2 k, sub b1 ^^^ byte1 k, sub b0 ^^^ byte0 k]

/-- The last round of R230. -/
def encLast (k : List Word) (nr : Nat) (t : AesState) : Bytes :=
  lastWord sbox (byte3 t.t0) (byte2 t.t1) (byte1 t.t2) (byte0 t.t3) (k.getD (4 * nr) 0) ++
  lastWord sbox (byte3 t.t1) (byte2 t.t2) (byte1 t.t3) (byte0 t.t0) (k.getD (4 * nr + 1) 0) ++
  lastWord sbox (byte3 t.t2) (byte2 t.t3) (byte1 t.t0) (byte0 t.t1) (k.getD (4 * nr + 2) 0) ++
  lastWord sbox (byte3 t.t3) (byte2 t.t0) (byte1 t.t1) (byte0 t.t2) (k.getD (4 * nr + 3) 0)

/-- The last round of R231. -/
def decLast (k : List Word) (nr : Nat) (t : AesState) : Bytes :=
  lastWord invSbox (byte3 t.t0) (byte2 t.t3) (byte1 t.t2) (byte0 t.t1) (k.getD (4 * nr) 0) ++
  lastWord invSbox (byte3 t.t1) (byte2 t.t0) (byte1 t.t3) (byte0 t.t2) (k.getD (4 * nr + 1) 0) ++
  lastWord invSbox (byte3 t.t2) (byte2 t.t1) (byte1 t.t0) (byte0 t.t3) (k.getD (4 * nr + 2) 0) ++
  lastWord invSbox (byte3 t.t3) (byte2 t.t2) (byte1 t.t1) (byte0 t.t0) (k.getD (4 * nr + 3) 0)

/-- `AesEnc(K, Nr, blk, n)` of R230. -/
def aesEnc (k : List Word) (nr : Nat) (blk : Bytes) (n : Nat) : Bytes :=
  (encLast k nr ((List.range' 1 (nr - 1)).foldl (encRound k) (aesFirst k blk))).take n

/-- `AesDec(KD, Nr, blk, n)` of R231. -/
def aesDec (k : List Word) (nr : Nat) (blk : Bytes) (n : Nat) : Bytes :=
  (decLast k nr ((List.range' 1 (nr - 1)).foldl (decRound k) (aesFirst k blk))).take n

/-- `Enc(key, b, n)` of 42_aes_modes.md R270. -/
def aesEncKey (key b : Bytes) (n : Nat) : Bytes := aesEnc (keyExpansion key) (keyNr key) b n

/-- `Dec(key, b)` of 42_aes_modes.md R270. -/
def aesDecKey (key b : Bytes) : Bytes := aesDec (decSchedule key) (keyNr key) b 16

end Sys2Proof.Machine
end

