-- ==== Sys2Proof/Machine/Ops.lean ====
section
/-! DEFINITION. The named operations over DMEM and over the machine: reading and writing bytes (00_scope.md R12,
20_memory.md R100 to R115), accepting a command (10_state.md R36, R59), the two completions (60_exceptions.md R471, R472;
an error completion is all the "exception entry" there is, R478, and there is no return, R479), and the soft reset
(70_reset_and_hazards.md R521). -/

namespace Sys2Proof.Machine

/-- What a byte that nothing has written reads as. R115 calls it a draw; the fixed byte 0 is a DESIGN CHOICE (log
entry 1): any other draw is a memory that lists it (`State.powerOn`). -/
def unwrittenByte : Byte := 0

/-- The byte of DMEM at an address. -/
def Memory.read : Memory → Nat → Byte
  | [], _ => unwrittenByte
  | (x, v) :: m, a => if x = a then v else Memory.read m a

/-- DMEM with the byte at an address replaced, in canonical form. -/
def Memory.write : Memory → Nat → Byte → Memory
  | [], a, b => if b = unwrittenByte then [] else [(a, b)]
  | (x, v) :: m, a, b =>
    if a < x then (if b = unwrittenByte then (x, v) :: m else (a, b) :: (x, v) :: m)
    else if a = x then (if b = unwrittenByte then m else (a, b) :: m)
    else (x, v) :: Memory.write m a b

/-- Every listed address is at least `lo`, they rise strictly, and no listed byte is the unwritten one. -/
def Memory.wfFrom : Nat → Memory → Bool
  | _, [] => true
  | lo, (x, v) :: m => decide (lo ≤ x) && v != unwrittenByte && Memory.wfFrom (x + 1) m

/-- The canonical form of a DMEM of `size` bytes: strictly rising addresses below `size`, no unwritten byte listed. -/
def Memory.wf (size : Nat) (m : Memory) : Bool :=
  Memory.wfFrom 0 m && m.all (fun c => decide (c.1 < size))

/-- `MemRead(addr, n)` of R12. -/
def Memory.readBytes (m : Memory) (addr n : Nat) : Bytes := (List.range' addr n).map (Memory.read m)

/-- `MemWrite(addr, |v|, v)` of R12. -/
def Memory.writeBytes : Memory → Nat → Bytes → Memory
  | m, _, [] => m
  | m, addr, b :: v => Memory.writeBytes (Memory.write m addr b) (addr + 1) v

/-- The state with bytes written to DMEM. -/
def State.store (s : State) (addr : Nat) (v : Bytes) : State :=
  { s with dmem := Memory.writeBytes s.dmem addr v }

/-- STATUS.BUSY of R33 and R59: the phase is BUSY. -/
def State.busy (s : State) : Bool :=
  match s.phase with
  | .idle => false
  | .busy _ _ => true

/-- Successful completion, `finish(n)` (R471): ERRCODE 0, OUT_LEN n, ERR 0, DONE 1, BUSY 0, phase IDLE. -/
def State.finish (s : State) (n : Nat) : State :=
  { s with errcode := .success, outLen := BitVec.ofNat 32 n, err := false, done := true, phase := .idle }

/-- Error completion, `raise E` (R472): nothing the command would have written changes; ERRCODE code(E), OUT_LEN 0,
ERR 1, DONE 1, BUSY 0, phase IDLE. -/
def State.raise (s : State) (e : ErrCode) : State :=
  { s with errcode := e, outLen := 0, err := true, done := true, phase := .idle }

/-- The state just after an accepted write of `v` to CMD (R36): DONE and ERR cleared, BUSY with the snapshot of R59,
`left` steps before the completion step. -/
def State.launch (s : State) (v : Word) (left : Nat) : State :=
  { s with cmd := v, done := false, err := false, phase := .busy ⟨v, s.ops⟩ left }

/-- An accepted write of `v` to CMD (R36); how long the command takes is a free value (R550). -/
def State.accept (s : State) (v : Word) : State :=
  { s.launch v (Config.cmdLatency s.draws) with draws := s.draws + 1 }

/-- The soft reset (R521): every element of R70 at its power-on value but DMEM; a running command never completes. The
parameters and the host's own fields are no part of the core and stay. -/
def State.softReset (s : State) : State :=
  { State.powerOn s.params s.dmem with
    host := s.host, hostData := s.hostData, checkFailed := s.checkFailed, draws := s.draws }

end Sys2Proof.Machine
end

