-- ==== Sys2Proof/Machine/Flags.lean ====
section
/-! DEFINITION. The register words with fields, as the host reads and writes them: STATUS (10_state.md R33, R34), CTRL
(R32), ERRCODE (R35), KS_ROUNDS (R38), and the interrupt output (60_exceptions.md R480). -/

namespace Sys2Proof.Machine

/-- The numeric code of R470. -/
def ErrCode.code : ErrCode → BitVec 8
  | .success => 0x00
  | .illegalCommand => 0x01
  | .addressError => 0x02
  | .invalidKeyLength => 0x03
  | .invalidNonceLength => 0x04
  | .invalidOffset => 0x05
  | .bufferTooShort => 0x06
  | .invalidPadding => 0x07
  | .authenticationFailure => 0x08
  | .unsupportedOperation => 0x09
  | .invalidArgument => 0x0A
  | .keyNotLoaded => 0x0B
  | .sinkNotOpen => 0x0C

/-- KSE_NR and KSD_NR as numbers (R53). -/
def Rounds.nr : Rounds → Nat
  | .unloaded => 0
  | .ten => 10
  | .twelve => 12
  | .fourteen => 14

/-- NR ≠ 0: KSE_VALID and KSD_VALID of R33. -/
def Schedule.valid (k : Schedule) : Bool := k.nr.nr != 0

/-- The bit of a word, for a flag at position `i`. -/
def flagBit (b : Bool) (i : Nat) : Word := if b then BitVec.ofNat 32 (2 ^ i) else 0

/-- The value a read of STATUS returns (R33): bits 7 and 31:13 read 0. -/
def State.statusWord (s : State) : Word :=
  flagBit s.busy 0 ||| flagBit s.done 1 ||| flagBit s.err 2 ||| flagBit s.eqFlag 3 |||
  flagBit s.kse.valid 4 ||| flagBit s.ksd.valid 5 ||| flagBit s.werr 6 |||
  flagBit s.sha256.isOpen 8 ||| flagBit s.sha512.isOpen 9 ||| flagBit s.blake2s.isOpen 10 |||
  flagBit s.poly1305.isOpen 11 ||| flagBit s.hmac.isOpen 12

/-- A host write to STATUS (R34): DONE, ERR and WERR are cleared by a 1 in their bit; every other bit is ignored. -/
def State.writeStatus (s : State) (v : Word) : State :=
  { s with done := s.done && !v.getLsbD 1, err := s.err && !v.getLsbD 2, werr := s.werr && !v.getLsbD 6 }

/-- The value a read of CTRL returns (R32): SRST reads 0. -/
def State.ctrlWord (s : State) : Word := flagBit s.irqEn 1

/-- A host write to CTRL (R32, R524): bit 0 performs the soft reset and bit 1 is then ignored (R521); else IRQ_EN is
bit 1. -/
def State.writeCtrl (s : State) (v : Word) : State :=
  if v.getLsbD 0 then s.softReset else { s with irqEn := v.getLsbD 1 }

/-- The value a read of ERRCODE returns (R35): bits 31:8 read 0. -/
def State.errcodeWord (s : State) : Word := s.errcode.code.setWidth 32

/-- The value a read of KS_ROUNDS returns (R38): KSE_NR in bits 3:0, KSD_NR in bits 11:8. -/
def State.ksRoundsWord (s : State) : Word := BitVec.ofNat 32 (s.kse.nr.nr + 256 * s.ksd.nr.nr)

/-- The interrupt output (R480, 10_state.md R63): a function of the state that holds no value of its own. -/
def State.irq (s : State) : Bool := s.irqEn && (s.done || s.err)

/-- The host's record that an access was dropped or refused (60_exceptions.md R481): WERR and nothing else. -/
def State.refuseAccess (s : State) : State := { s with werr := true }

end Sys2Proof.Machine
end

