-- ==== Sys2Proof/Machine/Operands.lean ====
section
/-! DEFINITION. The operands of a command (30_encoding.md R145, R146): regions and scalars from the snapshot, the bounds
check of 20_memory.md R105, and which error is reported (60_exceptions.md R474). -/

namespace Sys2Proof.Machine

/-- The operand registers a command reads: those of the snapshot (R59). An IDLE state has none; the command then
reads the registers it would have been accepted with (DESIGN CHOICE, log entry 12). -/
def State.snap (s : State) : OperandRegs :=
  match s.phase with
  | .idle => s.ops
  | .busy sn _ => sn.ops

/-- An (address, length) pair naming a DMEM region, as naturals (R105). -/
structure Region where
  addr : Nat
  len : Nat
deriving DecidableEq, Repr

/-- The bounds check of R105, without 32-bit wrap and for every length, 0 included. -/
def Region.fits (r : Region) (size : Nat) : Bool := decide (r.addr + r.len ≤ size)

/-- The KEY descriptor (R39). -/
def State.keyRegion (s : State) : Region := ⟨s.snap.keyAddr.toNat, s.snap.keyLen.toNat⟩

/-- The NONCE descriptor (R40). -/
def State.nonceRegion (s : State) : Region := ⟨s.snap.nonceAddr.toNat, s.snap.nonceLen.toNat⟩

/-- The AAD descriptor (R41). -/
def State.aadRegion (s : State) : Region := ⟨s.snap.aadAddr.toNat, s.snap.aadLen.toNat⟩

/-- The SRC descriptor (R42). -/
def State.srcRegion (s : State) : Region := ⟨s.snap.srcAddr.toNat, s.snap.srcLen.toNat⟩

/-- The DST descriptor (R43); its length is a capacity. -/
def State.dstRegion (s : State) : Region := ⟨s.snap.dstAddr.toNat, s.snap.dstLen.toNat⟩

/-- The 16-byte tag region of the AEAD commands (R44, R105). -/
def State.tagRegion (s : State) : Region := ⟨s.snap.tagAddr.toNat, 16⟩

/-- The second operand of CT_COMPARE: SRC_LEN bytes at TAG_ADDR (R44, R105). -/
def State.cmpRegion (s : State) : Region := ⟨s.snap.tagAddr.toNat, s.snap.srcLen.toNat⟩

/-- KSI = KSI_HI·2^32 + KSI_LO (R20, R47). -/
def State.ksi (s : State) : Nat := s.snap.ksiHi.toNat * 2 ^ 32 + s.snap.ksiLo.toNat

/-- `In(A, L)` of R12: the bytes of a region. -/
def State.input (s : State) (r : Region) : Bytes := Memory.readBytes s.dmem r.addr r.len

/-- One check of a command: the error it reports, and whether it applies. -/
abbrev Check := Bool × ErrCode

/-- AddressError: one of the regions a command names does not fit in DMEM (R105). -/
def State.addressCheck (s : State) (regions : List Region) : Check :=
  (regions.any (fun r => !r.fits s.params.dmemSize), .addressError)

/-- The first error of the list that applies (R474). -/
def firstError (checks : List Check) : Option ErrCode := (checks.find? (fun c => c.1)).map (fun c => c.2)

/-- AAD_LEN ≠ 0 on a command without associated data (R146 entry `L`, R470). -/
def State.aadCheck (s : State) : Check := (s.snap.aadLen.toNat != 0, .unsupportedOperation)

/-- KEY_LEN is not one of the lengths a command takes. -/
def State.keyLenCheck (s : State) (lens : List Nat) : Check := (!lens.contains s.snap.keyLen.toNat, .invalidKeyLength)

/-- NONCE_LEN is not one of the lengths a command takes. -/
def State.nonceLenCheck (s : State) (lens : List Nat) : Check :=
  (!lens.contains s.snap.nonceLen.toNat, .invalidNonceLength)

/-- KSI ≠ 0 on a command without an offset (92_eei_decisions.md D28, D34). -/
def State.zeroOffsetCheck (s : State) : Check := (s.ksi != 0, .invalidOffset)

/-- DST_LEN is less than the output needs. -/
def State.capacityCheck (s : State) (need : Nat) : Check := (decide (s.snap.dstLen.toNat < need), .bufferTooShort)

/-- Success of a command whose only output is the byte string `out` at DST: the bytes are written, OUT_LEN is their
number (R471, 20_memory.md R111). -/
def State.output (s : State) (out : Bytes) : State := (s.store s.dstRegion.addr out).finish out.length

/-- The AES key lengths of 41_aes_engine.md R220. -/
def aesKeyLens : List Nat := [16, 24, 32]

/-- `CTR_NONCE_LENS` (R5) as the lengths it allows. -/
def ctrNonceLengths : CtrNonceLens → List Nat
  | .only12 => [12]
  | .only16 => [16]
  | .both => [12, 16]

end Sys2Proof.Machine
end

