-- ==== Sys2Proof/Machine/Utility.lean ====
section
/-! DEFINITION. The utility commands of 40_utilities.md: NOP, ZEROIZE, CT_COMPARE. -/

namespace Sys2Proof.Machine

/-- The outcomes of this machine. -/
abbrev Result := Host.Outcome State Fault Refusal

/-- NOP (R190). -/
def execNop (s : State) : Result := .next (s.finish 0)

/-- The state with both key schedules unloaded and every sink context closed (R191). -/
def State.zeroize (s : State) : State :=
  { s with
    kse := .unloaded, ksd := .unloaded,
    sha256 := .closed (.zero 32), sha512 := .closed (.zero 64), blake2s := .closed .zero,
    poly1305 := .closed .zero, hmac := .closed .zero }

/-- ZEROIZE (R191). -/
def execZeroize (s : State) : Result := .next (s.zeroize.finish 0)

/-- CT_COMPARE (R192). -/
def execCtCompare (s : State) : Result :=
  match firstError [s.addressCheck [s.srcRegion, s.cmpRegion]] with
  | some e => .next (s.raise e)
  | none =>
    let equal := ctEq (s.input s.srcRegion) (s.input s.cmpRegion)
    .next ({ s with eqFlag := equal }.finish 0)

end Sys2Proof.Machine
end

