-- ==== Sys2Proof/Machine/AesBlock.lean ====
section
/-! DEFINITION. The AES key expansion and single-block commands of 41_aes_engine.md: R235 to R238. -/

namespace Sys2Proof.Machine

/-- The round count of a key of a valid length (R220); `unloaded` for any other, which no command loads. -/
def roundsOf (key : Bytes) : Rounds :=
  match key.length with
  | 16 => .ten
  | 24 => .twelve
  | 32 => .fourteen
  | _ => .unloaded

/-- A schedule register array holding the words given, 0 past them (R53, R235, R236). -/
def Schedule.load (nr : Rounds) (w : List Word) : Schedule :=
  ⟨nr, ⟨((w ++ List.replicate 60 0).take 60).toArray, by simp⟩⟩

/-- The words of a schedule, KSE[0..59] or KSD[0..59]. -/
def Schedule.toList (k : Schedule) : List Word := k.words.toList

/-- The checks of R235 and R236. -/
def State.keyExpChecks (s : State) : List Check := [s.addressCheck [s.keyRegion], s.keyLenCheck aesKeyLens]

/-- AES_KEYEXP_ENC (R235). -/
def execAesKeyexpEnc (s : State) : Result :=
  match firstError s.keyExpChecks with
  | some e => .next (s.raise e)
  | none =>
    let key := s.input s.keyRegion
    .next ({ s with kse := Schedule.load (roundsOf key) (keyExpansion key) }.finish 0)

/-- AES_KEYEXP_DEC (R236). -/
def execAesKeyexpDec (s : State) : Result :=
  match firstError s.keyExpChecks with
  | some e => .next (s.raise e)
  | none =>
    let key := s.input s.keyRegion
    .next ({ s with ksd := Schedule.load (roundsOf key) (decSchedule key) }.finish 0)

/-- The checks of R237 and R238, for the schedule the command needs. -/
def State.blockChecks (s : State) (k : Schedule) : List Check :=
  [s.addressCheck [s.srcRegion, s.dstRegion],
   (!k.valid, .keyNotLoaded),
   (decide (s.snap.srcLen.toNat < 16 ∨ s.snap.dstLen.toNat = 0), .bufferTooShort)]

/-- The number of output bytes of a single-block command: min(DST_LEN, 16) (R237). -/
def State.blockOutLen (s : State) : Nat := min s.snap.dstLen.toNat 16

/-- The source block of a single-block command: the first 16 bytes of SRC (R237). -/
def State.blockIn (s : State) : Bytes := Memory.readBytes s.dmem s.srcRegion.addr 16

/-- AES_ENC_BLOCK (R237). -/
def execAesEncBlock (s : State) : Result :=
  match firstError (s.blockChecks s.kse) with
  | some e => .next (s.raise e)
  | none => .next (s.output (aesEnc s.kse.toList s.kse.nr.nr s.blockIn s.blockOutLen))

/-- AES_DEC_BLOCK (R238). -/
def execAesDecBlock (s : State) : Result :=
  match firstError (s.blockChecks s.ksd) with
  | some e => .next (s.raise e)
  | none => .next (s.output (aesDec s.ksd.toList s.ksd.nr.nr s.blockIn s.blockOutLen))

end Sys2Proof.Machine
end

