-- ==== Sys2Proof/Machine/AesModes.lean ====
section
/-! DEFINITION. The AES-CBC and AES-CTR mode controllers and the nonce increment: 42_aes_modes.md R270 to R285. They
expand the key into scratch and never read or change KSE or KSD. -/

namespace Sys2Proof.Machine

/-- The loop of R271 over the padded blocks. -/
def cbcEncBlocks (key : Bytes) : Bytes → List Bytes → Bytes
  | _, [] => []
  | prev, d :: ds =>
    let c := aesEncKey key (xorBytes d prev) 16
    c ++ cbcEncBlocks key c ds

/-- `CbcEnc(k, iv, m)` of R271. -/
def cbcEnc (key iv m : Bytes) : Bytes := cbcEncBlocks key iv (chunks 16 (pad7 m))

/-- The loop of R272 over the ciphertext blocks. -/
def cbcDecBlocks (key : Bytes) : Bytes → List Bytes → Bytes
  | _, [] => []
  | prev, c :: cs => xorBytes (aesDecKey key c) prev ++ cbcDecBlocks key c cs

/-- `CbcDec(k, iv, c)` of R272; `none` is InvalidPadding. -/
def cbcDec (key iv c : Bytes) : Option Bytes := unpad7 (cbcDecBlocks key iv (chunks 16 c))

/-- `CtrBlock0(n)` of R273. -/
def ctrBlock0 (n : Bytes) : Bytes := n ++ zeros (16 - n.length)

/-- `CtrAdd(cb, v)` of R274, for the parameter CTR_COUNTER_BITS. -/
def ctrAdd (bits : CtrCounterBits) (cb : Bytes) (v : Nat) : Bytes :=
  match bits with
  | .bits32 => cb.take 12 ++ toBe32 (BitVec.ofNat 32 ((be32 cb 12).toNat + v))
  | .bits128 => toBe ((beInt cb + v) % 2 ^ 128) 16

/-- The loop of R275 over the chunks of the message. -/
def ctrBlocks (bits : CtrCounterBits) (key : Bytes) : Bytes → List Bytes → Bytes
  | _, [] => []
  | cb, chunk :: rest =>
    xorBytes chunk (aesEncKey key cb chunk.length) ++ ctrBlocks bits key (ctrAdd bits cb 1) rest

/-- `CtrXor(k, n, m, o)` of R275. -/
def ctrXor (bits : CtrCounterBits) (key n m : Bytes) (o : Nat) : Bytes :=
  ctrBlocks bits key (ctrAdd bits (ctrBlock0 n) (o / 16)) (chunks 16 m)

/-- The checks the CBC commands share (R280, R281), up to InvalidOffset. -/
def State.cbcChecks (s : State) : List Check :=
  [s.addressCheck [s.keyRegion, s.nonceRegion, s.srcRegion, s.dstRegion],
   s.aadCheck, s.keyLenCheck aesKeyLens, s.nonceLenCheck [16], s.zeroOffsetCheck]

/-- The length of the CBC ciphertext: SRC_LEN + 16 - (SRC_LEN mod 16) (R280). -/
def State.cbcOutLen (s : State) : Nat := s.snap.srcLen.toNat + 16 - s.snap.srcLen.toNat % 16

/-- AES_CBC_ENC (R280). -/
def execAesCbcEnc (s : State) : Result :=
  match firstError (s.cbcChecks ++ [s.capacityCheck s.cbcOutLen]) with
  | some e => .next (s.raise e)
  | none => .next (s.output (cbcEnc (s.input s.keyRegion) (s.input s.nonceRegion) (s.input s.srcRegion)))

/-- SRC_LEN of AES_CBC_DEC is not a positive multiple of 16 (R281). -/
def State.raggedCheck (s : State) : Check :=
  (decide (s.snap.srcLen.toNat = 0 ∨ s.snap.srcLen.toNat % 16 ≠ 0), .invalidArgument)

/-- AES_CBC_DEC (R281): after the checks, the two errors found during the work, InvalidPadding and then
BufferTooShort for the unpadded length. -/
def execAesCbcDec (s : State) : Result :=
  match firstError (s.cbcChecks ++ [s.raggedCheck]) with
  | some e => .next (s.raise e)
  | none =>
    match cbcDec (s.input s.keyRegion) (s.input s.nonceRegion) (s.input s.srcRegion) with
    | none => .next (s.raise .invalidPadding)
    | some p => if s.snap.dstLen.toNat < p.length then .next (s.raise .bufferTooShort) else .next (s.output p)

/-- The checks of R282 and R283. -/
def State.ctrChecks (s : State) : List Check :=
  [s.addressCheck [s.keyRegion, s.nonceRegion, s.srcRegion, s.dstRegion],
   s.aadCheck, s.keyLenCheck aesKeyLens, s.nonceLenCheck (ctrNonceLengths s.params.ctrNonceLens),
   (decide (s.ksi % 16 ≠ 0 ∨ s.ksi / 16 ≥ 2 ^ 32), .invalidOffset),
   s.capacityCheck s.snap.srcLen.toNat]

/-- The output of the AES-CTR commands (R282, R283). -/
def State.ctrOut (s : State) : Bytes :=
  ctrXor s.params.ctrCounterBits (s.input s.keyRegion) (s.input s.nonceRegion) (s.input s.srcRegion) s.ksi

/-- AES_CTR_ENC (R282). -/
def execAesCtrEnc (s : State) : Result :=
  match firstError s.ctrChecks with
  | some e => .next (s.raise e)
  | none => .next (s.output s.ctrOut)

/-- AES_CTR_DEC (R283): the same operation. -/
def execAesCtrDec (s : State) : Result :=
  match firstError s.ctrChecks with
  | some e => .next (s.raise e)
  | none => .next (s.output s.ctrOut)

/-- The incremented nonce of R284: its last 4 bytes, big-endian, plus `v` modulo 2^32. -/
def nonceInc (n : Bytes) (v : Nat) : Bytes :=
  let k := n.length - 4
  n.take k ++ toBe32 (BitVec.ofNat 32 ((be32 n k).toNat + v))

/-- The checks of R284. -/
def State.nonceIncChecks (s : State) : List Check :=
  [s.addressCheck [s.nonceRegion, s.dstRegion],
   (decide (s.snap.nonceLen.toNat < 4 ∨ s.snap.nonceLen.toNat > 16), .invalidNonceLength),
   s.capacityCheck s.snap.nonceLen.toNat]

/-- NONCE_INC (R284). -/
def execNonceInc (s : State) : Result :=
  match firstError s.nonceIncChecks with
  | some e => .next (s.raise e)
  | none => .next (s.output (nonceInc (s.input s.nonceRegion) s.snap.arg.toNat))

end Sys2Proof.Machine
end

