-- ==== Sys2Proof/Machine/ChaCha.lean ====
section
/-! DEFINITION. ChaCha20, HChaCha20 and XChaCha20: the permutation and the stream of 43_chacha20.md R310 to R318, and
the commands R320 to R325. -/

namespace Sys2Proof.Machine

/-- A 16-word working array: the ChaCha state (R311), the BLAKE2s work vector (45_hash.md R418). -/
structure Words16 where
  w0 : Word
  w1 : Word
  w2 : Word
  w3 : Word
  w4 : Word
  w5 : Word
  w6 : Word
  w7 : Word
  w8 : Word
  w9 : Word
  w10 : Word
  w11 : Word
  w12 : Word
  w13 : Word
  w14 : Word
  w15 : Word
deriving DecidableEq, Repr

/-- The words in order. -/
def Words16.toList (x : Words16) : List Word :=
  [x.w0, x.w1, x.w2, x.w3, x.w4, x.w5, x.w6, x.w7, x.w8, x.w9, x.w10, x.w11, x.w12, x.w13, x.w14, x.w15]

/-- `Init(k, ctr, n)` of R311, with the last four words given: ctr and the nonce words for ChaCha20, the four nonce
words for HChaCha20 (R317). Words 0 to 3 are the constants of R310. -/
def chachaInit (k : Bytes) (w12 w13 w14 w15 : Word) : Words16 where
  w0 := 0x61707865
  w1 := 0x3320646e
  w2 := 0x79622d32
  w3 := 0x6b206574
  w4 := le32 k 0
  w5 := le32 k 4
  w6 := le32 k 8
  w7 := le32 k 12
  w8 := le32 k 16
  w9 := le32 k 20
  w10 := le32 k 24
  w11 := le32 k 28
  w12 := w12
  w13 := w13
  w14 := w14
  w15 := w15

/-- The quarter-round of R312 on the words (x[a], x[b], x[c], x[d]). -/
def quarterRound (a b c d : Word) : Word × Word × Word × Word :=
  let a1 := a + b
  let d1 := (d ^^^ a1).rotateLeft 16
  let c1 := c + d1
  let b1 := (b ^^^ c1).rotateLeft 12
  let a2 := a1 + b1
  let d2 := (d1 ^^^ a2).rotateLeft 8
  let c2 := c1 + d2
  let b2 := (b1 ^^^ c2).rotateLeft 7
  (a2, b2, c2, d2)

/-- One double-round of R313: four column quarter-rounds, then four diagonal ones, in the order written there. -/
def doubleRound (x : Words16) : Words16 :=
  let (a0, a4, a8, a12) := quarterRound x.w0 x.w4 x.w8 x.w12
  let (a1, a5, a9, a13) := quarterRound x.w1 x.w5 x.w9 x.w13
  let (a2, a6, a10, a14) := quarterRound x.w2 x.w6 x.w10 x.w14
  let (a3, a7, a11, a15) := quarterRound x.w3 x.w7 x.w11 x.w15
  let (b0, b5, b10, b15) := quarterRound a0 a5 a10 a15
  let (b1, b6, b11, b12) := quarterRound a1 a6 a11 a12
  let (b2, b7, b8, b13) := quarterRound a2 a7 a8 a13
  let (b3, b4, b9, b14) := quarterRound a3 a4 a9 a14
  ⟨b0, b1, b2, b3, b4, b5, b6, b7, b8, b9, b10, b11, b12, b13, b14, b15⟩

/-- `Permute(s)` of R313: ten double-rounds. -/
def chachaPermute (s : Words16) : Words16 := Nat.iterate doubleRound 10 s

/-- `Block(k, ctr, n)` of R314: 64 bytes. -/
def chachaBlock (k : Bytes) (ctr : Word) (n : Bytes) : Bytes :=
  let s := chachaInit k ctr (le32 n 0) (le32 n 4) (le32 n 8)
  (List.zipWith (fun x y => toLe32 (x + y)) (chachaPermute s).toList s.toList).flatten

/-- The keystream bytes `KS(k, n, i)` of R315 for `i` in `o ..< o + len`, made block by block: the blocks from
`o div 64` on, without the first `o mod 64` bytes. -/
def chachaStream (k n : Bytes) (o len : Nat) : Bytes :=
  (((List.range' (o / 64) (ceilDiv (o % 64 + len) 64)).flatMap
    (fun c => chachaBlock k (BitVec.ofNat 32 c) n)).drop (o % 64)).take len

/-- `ChaXor(k, n, m, o)` of R315. -/
def chachaXor (k n m : Bytes) (o : Nat) : Bytes := xorBytes m (chachaStream k n o m.length)

/-- `HChaCha(k, n)` of R317: no feed-forward. -/
def hchacha (k n : Bytes) : Bytes :=
  let x := chachaPermute (chachaInit k (le32 n 0) (le32 n 4) (le32 n 8) (le32 n 12))
  toLe32 x.w0 ++ toLe32 x.w1 ++ toLe32 x.w2 ++ toLe32 x.w3 ++
  toLe32 x.w12 ++ toLe32 x.w13 ++ toLe32 x.w14 ++ toLe32 x.w15

/-- `XSub(k, N)` of R318. -/
def xSubkey (k n : Bytes) : Bytes := hchacha k (n.take 16)

/-- `XNonce(N)` of R318. -/
def xNonce (n : Bytes) : Bytes := zeros 4 ++ n.drop 16

/-- `XChaXor(k, N, m, o)` of R318. -/
def xchachaXor (k n m : Bytes) (o : Nat) : Bytes := chachaXor (xSubkey k n) (xNonce n) m o

/-- The checks of R320 and R323, for the nonce and output length of the command. -/
def State.keyedBlockChecks (s : State) (nonceLen outLen : Nat) : List Check :=
  [s.addressCheck [s.keyRegion, s.nonceRegion, s.dstRegion],
   s.keyLenCheck [32], s.nonceLenCheck [nonceLen], s.capacityCheck outLen]

/-- CHACHA20_BLOCK (R320): the counter is ARG. -/
def execChacha20Block (s : State) : Result :=
  match firstError (s.keyedBlockChecks 12 64) with
  | some e => .next (s.raise e)
  | none => .next (s.output (chachaBlock (s.input s.keyRegion) s.snap.arg (s.input s.nonceRegion)))

/-- The offset limit of R316: a needed block counter reaches 2^32. -/
def State.streamOffsetCheck (s : State) : Check :=
  (decide ((s.ksi + max s.snap.srcLen.toNat 1 - 1) / 64 ≥ 2 ^ 32), .invalidOffset)

/-- The checks of the stream commands (R321, R324), for the nonce length of the command. -/
def State.streamChecks (s : State) (nonceLen : Nat) : List Check :=
  [s.addressCheck [s.keyRegion, s.nonceRegion, s.srcRegion, s.dstRegion],
   s.aadCheck, s.keyLenCheck [32], s.nonceLenCheck [nonceLen], s.streamOffsetCheck,
   s.capacityCheck s.snap.srcLen.toNat]

/-- The output of the ChaCha20 stream commands (R321, R322). -/
def State.chachaOut (s : State) : Bytes :=
  chachaXor (s.input s.keyRegion) (s.input s.nonceRegion) (s.input s.srcRegion) s.ksi

/-- The output of the XChaCha20 stream commands (R324, R325). -/
def State.xchachaOut (s : State) : Bytes :=
  xchachaXor (s.input s.keyRegion) (s.input s.nonceRegion) (s.input s.srcRegion) s.ksi

/-- CHACHA20_ENC (R321). -/
def execChacha20Enc (s : State) : Result :=
  match firstError (s.streamChecks 12) with
  | some e => .next (s.raise e)
  | none => .next (s.output s.chachaOut)

/-- CHACHA20_DEC (R322): the same operation. -/
def execChacha20Dec (s : State) : Result :=
  match firstError (s.streamChecks 12) with
  | some e => .next (s.raise e)
  | none => .next (s.output s.chachaOut)

/-- HCHACHA20 (R323). -/
def execHchacha20 (s : State) : Result :=
  match firstError (s.keyedBlockChecks 16 32) with
  | some e => .next (s.raise e)
  | none => .next (s.output (hchacha (s.input s.keyRegion) (s.input s.nonceRegion)))

/-- XCHACHA20_ENC (R324). -/
def execXchacha20Enc (s : State) : Result :=
  match firstError (s.streamChecks 24) with
  | some e => .next (s.raise e)
  | none => .next (s.output s.xchachaOut)

/-- XCHACHA20_DEC (R325): the same operation. -/
def execXchacha20Dec (s : State) : Result :=
  match firstError (s.streamChecks 24) with
  | some e => .next (s.raise e)
  | none => .next (s.output s.xchachaOut)

end Sys2Proof.Machine
end

