-- ==== Sys2Proof/Machine/Sha2.lean ====
section
/-! DEFINITION. SHA-256 and SHA-512: the functions of 45_hash.md R390 to R396 and R405 to R409, and the state changes
of their sinks. The two share everything but widths, rotations and constants, so what they share is written once. -/

namespace Sys2Proof.Machine

/-- `Ch(e, f, g)` of R390, at any width. -/
def sha2Ch {w : Nat} (e f g : BitVec w) : BitVec w := (e &&& f) ^^^ (~~~e &&& g)

/-- `Maj(a, b, c)` of R390, at any width. -/
def sha2Maj {w : Nat} (a b c : BitVec w) : BitVec w := (a &&& b) ^^^ (a &&& c) ^^^ (b &&& c)

/-- `S0_256` of R390. -/
def bigS0_256 (a : Word) : Word := a.rotateRight 2 ^^^ a.rotateRight 13 ^^^ a.rotateRight 22

/-- `S1_256` of R390. -/
def bigS1_256 (e : Word) : Word := e.rotateRight 6 ^^^ e.rotateRight 11 ^^^ e.rotateRight 25

/-- `s0_256` of R390. -/
def smallS0_256 (w : Word) : Word := w.rotateRight 7 ^^^ w.rotateRight 18 ^^^ (w >>> 3)

/-- `s1_256` of R390. -/
def smallS1_256 (w : Word) : Word := w.rotateRight 17 ^^^ w.rotateRight 19 ^^^ (w >>> 10)

/-- `S0_512` of R405. -/
def bigS0_512 (a : BitVec 64) : BitVec 64 := a.rotateRight 28 ^^^ a.rotateRight 34 ^^^ a.rotateRight 39

/-- `S1_512` of R405. -/
def bigS1_512 (e : BitVec 64) : BitVec 64 := e.rotateRight 14 ^^^ e.rotateRight 18 ^^^ e.rotateRight 41

/-- `s0_512` of R405. -/
def smallS0_512 (w : BitVec 64) : BitVec 64 := w.rotateRight 1 ^^^ w.rotateRight 8 ^^^ (w >>> 7)

/-- `s1_512` of R405. -/
def smallS1_512 (w : BitVec 64) : BitVec 64 := w.rotateRight 19 ^^^ w.rotateRight 61 ^^^ (w >>> 6)

/-- `K256` of R391. -/
def k256 : List Word :=
  ([0x428a2f98#32, 0x71374491#32, 0xb5c0fbcf#32, 0xe9b5dba5#32, 0x3956c25b#32, 0x59f111f1#32, 0x923f82a4#32, 0xab1c5ed5#32,
   0xd807aa98#32, 0x12835b01#32, 0x243185be#32, 0x550c7dc3#32, 0x72be5d74#32, 0x80deb1fe#32, 0x9bdc06a7#32, 0xc19bf174#32,
   0xe49b69c1#32, 0xefbe4786#32, 0x0fc19dc6#32, 0x240ca1cc#32, 0x2de92c6f#32, 0x4a7484aa#32, 0x5cb0a9dc#32, 0x76f988da#32,
   0x983e5152#32, 0xa831c66d#32, 0xb00327c8#32, 0xbf597fc7#32, 0xc6e00bf3#32, 0xd5a79147#32, 0x06ca6351#32, 0x14292967#32] : List Word) ++
  ([0x27b70a85#32, 0x2e1b2138#32, 0x4d2c6dfc#32, 0x53380d13#32, 0x650a7354#32, 0x766a0abb#32, 0x81c2c92e#32, 0x92722c85#32,
   0xa2bfe8a1#32, 0xa81a664b#32, 0xc24b8b70#32, 0xc76c51a3#32, 0xd192e819#32, 0xd6990624#32, 0xf40e3585#32, 0x106aa070#32,
   0x19a4c116#32, 0x1e376c08#32, 0x2748774c#32, 0x34b0bcb5#32, 0x391c0cb3#32, 0x4ed8aa4a#32, 0x5b9cca4f#32, 0x682e6ff3#32,
   0x748f82ee#32, 0x78a5636f#32, 0x84c87814#32, 0x8cc70208#32, 0x90befffa#32, 0xa4506ceb#32, 0xbef9a3f7#32, 0xc67178f2#32] : List Word)

/-- `K512` of R406. -/
def k512 : List (BitVec 64) :=
  ([0x428a2f98d728ae22#64, 0x7137449123ef65cd#64, 0xb5c0fbcfec4d3b2f#64, 0xe9b5dba58189dbbc#64,
   0x3956c25bf348b538#64, 0x59f111f1b605d019#64, 0x923f82a4af194f9b#64, 0xab1c5ed5da6d8118#64,
   0xd807aa98a3030242#64, 0x12835b0145706fbe#64, 0x243185be4ee4b28c#64, 0x550c7dc3d5ffb4e2#64,
   0x72be5d74f27b896f#64, 0x80deb1fe3b1696b1#64, 0x9bdc06a725c71235#64, 0xc19bf174cf692694#64,
   0xe49b69c19ef14ad2#64, 0xefbe4786384f25e3#64, 0x0fc19dc68b8cd5b5#64, 0x240ca1cc77ac9c65#64,
   0x2de92c6f592b0275#64, 0x4a7484aa6ea6e483#64, 0x5cb0a9dcbd41fbd4#64, 0x76f988da831153b5#64,
   0x983e5152ee66dfab#64, 0xa831c66d2db43210#64, 0xb00327c898fb213f#64, 0xbf597fc7beef0ee4#64,
   0xc6e00bf33da88fc2#64, 0xd5a79147930aa725#64, 0x06ca6351e003826f#64, 0x142929670a0e6e70#64,
   0x27b70a8546d22ffc#64, 0x2e1b21385c26c926#64, 0x4d2c6dfc5ac42aed#64, 0x53380d139d95b3df#64,
   0x650a73548baf63de#64, 0x766a0abb3c77b2a8#64, 0x81c2c92e47edaee6#64, 0x92722c851482353b#64] : List (BitVec 64)) ++
  ([0xa2bfe8a14cf10364#64, 0xa81a664bbc423001#64, 0xc24b8b70d0f89791#64, 0xc76c51a30654be30#64,
   0xd192e819d6ef5218#64, 0xd69906245565a910#64, 0xf40e35855771202a#64, 0x106aa07032bbd1b8#64,
   0x19a4c116b8d2d0c8#64, 0x1e376c085141ab53#64, 0x2748774cdf8eeb99#64, 0x34b0bcb5e19b48a8#64,
   0x391c0cb3c5c95a63#64, 0x4ed8aa4ae3418acb#64, 0x5b9cca4f7763e373#64, 0x682e6ff3d6b2b8a3#64,
   0x748f82ee5defb2fc#64, 0x78a5636f43172f60#64, 0x84c87814a1f0ab72#64, 0x8cc702081a6439ec#64,
   0x90befffa23631e28#64, 0xa4506cebde82bde9#64, 0xbef9a3f7b2c67915#64, 0xc67178f2e372532b#64,
   0xca273eceea26619c#64, 0xd186b8c721c0c207#64, 0xeada7dd6cde0eb1e#64, 0xf57d4f7fee6ed178#64,
   0x06f067aa72176fba#64, 0x0a637dc5a2c898a6#64, 0x113f9804bef90dae#64, 0x1b710b35131c471b#64,
   0x28db77f523047d84#64, 0x32caab7b40c72493#64, 0x3c9ebe0a15c9bebc#64, 0x431d67c49c100d4c#64,
   0x4cc5d4becb3e42b6#64, 0x597f299cfc657e2a#64, 0x5fcb6fab3ad6faec#64, 0x6c44198c4a475817#64] : List (BitVec 64))

/-- `H256` of R392, also the IV of BLAKE2s (R415). -/
def h256 : Hash8 32 :=
  ⟨0x6a09e667, 0xbb67ae85, 0x3c6ef372, 0xa54ff53a, 0x510e527f, 0x9b05688c, 0x1f83d9ab, 0x5be0cd19⟩

/-- `H512` of R407. -/
def h512 : Hash8 64 :=
  ⟨0x6a09e667f3bcc908, 0xbb67ae8584caa73b, 0x3c6ef372fe94f82b, 0xa54ff53a5f1d36f1,
   0x510e527fade682d1, 0x9b05688c2b3e6c1f, 0x1f83d9abfb41bd6b, 0x5be0cd19137e2179⟩

/-- The message schedule of R393: `n` more words; `ws` holds W[t-1], W[t-2], ... -/
def sha2Extend {w : Nat} (small0 small1 : BitVec w → BitVec w) : Nat → List (BitVec w) → List (BitVec w)
  | 0, ws => ws
  | n + 1, ws =>
    sha2Extend small0 small1 n
      ((small1 (ws.getD 1 0) + ws.getD 6 0 + small0 (ws.getD 14 0) + ws.getD 15 0) :: ws)

/-- One round of R393, with the round constant and the schedule word. -/
def sha2Round {w : Nat} (big0 big1 : BitVec w → BitVec w) (v : Hash8 w) (kw : BitVec w × BitVec w) : Hash8 w :=
  let t1 := v.h7 + big1 v.h4 + sha2Ch v.h4 v.h5 v.h6 + kw.1 + kw.2
  let t2 := big0 v.h0 + sha2Maj v.h0 v.h1 v.h2
  ⟨t1 + t2, v.h0, v.h1, v.h2, v.h3 + t1, v.h4, v.h5, v.h6⟩

/-- The word-wise sum at the end of R393. -/
def Hash8.add {w : Nat} (x y : Hash8 w) : Hash8 w :=
  ⟨x.h0 + y.h0, x.h1 + y.h1, x.h2 + y.h2, x.h3 + y.h3, x.h4 + y.h4, x.h5 + y.h5, x.h6 + y.h6, x.h7 + y.h7⟩

/-- The words in order. -/
def Hash8.toList {w : Nat} (x : Hash8 w) : List (BitVec w) := [x.h0, x.h1, x.h2, x.h3, x.h4, x.h5, x.h6, x.h7]

/-- The compression of R393 and R408 on the sixteen words of a block. -/
def sha2Compress {w : Nat} (big0 big1 small0 small1 : BitVec w → BitVec w) (k : List (BitVec w))
    (h : Hash8 w) (m : List (BitVec w)) : Hash8 w :=
  let ws := (sha2Extend small0 small1 (k.length - 16) m.reverse).reverse
  h.add ((k.zip ws).foldl (sha2Round big0 big1) h)

/-- `Comp256(H, b)` of R393. -/
def comp256 (h : Hash8 32) (b : Bytes) : Hash8 32 :=
  sha2Compress bigS0_256 bigS1_256 smallS0_256 smallS1_256 k256 h ((List.range 16).map (fun t => be32 b (4 * t)))

/-- `Comp512(H, b)` of R408. -/
def comp512 (h : Hash8 64) (b : Bytes) : Hash8 64 :=
  sha2Compress bigS0_512 bigS1_512 smallS0_512 smallS1_512 k512 h ((List.range 16).map (fun t => be64 b (8 * t)))

/-- What follows the message in Pad256 (R394), for a message of `total` bytes; 119 is 55 + 64, for a residue from 0 up
(DEDUCED, log entry 14). -/
def pad256 (total : Nat) : Bytes := 0x80 :: zeros ((119 - total % 64) % 64) ++ toBe (8 * total) 8

/-- What follows the message in Pad512 (R409), for a message of `total` bytes. -/
def pad512 (total : Nat) : Bytes := 0x80 :: zeros ((239 - total % 128) % 128) ++ toBe (8 * total) 16

/-- The 32-byte output of SHA-256 (R394). -/
def digest256 (h : Hash8 32) : Bytes := h.toList.flatMap toBe32

/-- The 64-byte output of SHA-512 (R409). -/
def digest512 (h : Hash8 64) : Bytes := h.toList.flatMap toBe64

/-- `SHA256(m)` of R394. -/
def sha256 (m : Bytes) : Bytes := digest256 ((chunks 64 (m ++ pad256 m.length)).foldl comp256 h256)

/-- `SHA512(m)` of R409. -/
def sha512 (m : Bytes) : Bytes := digest512 ((chunks 128 (m ++ pad512 m.length)).foldl comp512 h512)

/-- The loop of the ADD commands (R401, R411): every whole block of `blk` bytes is compressed, the rest is kept. -/
def sha2Add {w : Nat} (blk : Nat) (comp : Hash8 w → Bytes → Hash8 w) (c : Sha2Ctx w) (d : Bytes) : Sha2Ctx w :=
  let all := c.buf ++ d
  let full := all.length / blk
  ⟨(pieces blk full all).foldl comp c.h, all.drop (blk * full), c.total + d.length⟩

/-- The context SHA256_INIT opens (R400). -/
def sha256Init : Sha2Ctx 32 := ⟨h256, [], 0⟩

/-- The context SHA512_INIT opens (R410). -/
def sha512Init : Sha2Ctx 64 := ⟨h512, [], 0⟩

/-- The state change of SHA256_ADD (R401). -/
def sha256Add (c : Sha2Ctx 32) (d : Bytes) : Sha2Ctx 32 := sha2Add 64 comp256 c d

/-- The state change of SHA512_ADD (R411). -/
def sha512Add (c : Sha2Ctx 64) (d : Bytes) : Sha2Ctx 64 := sha2Add 128 comp512 c d

/-- The output of SHA256_CLOSE (R402). -/
def sha256Final (c : Sha2Ctx 32) : Bytes :=
  digest256 ((chunks 64 (c.buf ++ pad256 c.total)).foldl comp256 c.h)

/-- The output of SHA512_CLOSE (R412). -/
def sha512Final (c : Sha2Ctx 64) : Bytes :=
  digest512 ((chunks 128 (c.buf ++ pad512 c.total)).foldl comp512 c.h)

end Sys2Proof.Machine
end

