-- ==== Sys2Proof/Machine/Blake2s.lean ====
section
/-! DEFINITION. BLAKE2s: the functions of 45_hash.md R415 to R420 and the state changes of its sink. -/

namespace Sys2Proof.Machine

/-- The initial state of R415: unkeyed, 32-byte digest. -/
def blake2sStart : Hash8 32 := { h256 with h0 := h256.h0 ^^^ 0x01010020 }

/-- `SIGMA` of R416. -/
def blakeSigma : List (List Nat) :=
  [[0, 1, 2, 3, 4, 5, 6, 7, 8, 9, 10, 11, 12, 13, 14, 15],
   [14, 10, 4, 8, 9, 15, 13, 6, 1, 12, 0, 2, 11, 7, 5, 3],
   [11, 8, 12, 0, 5, 2, 15, 13, 10, 14, 3, 6, 7, 1, 9, 4],
   [7, 9, 3, 1, 13, 12, 11, 14, 2, 6, 5, 10, 4, 0, 15, 8],
   [9, 0, 5, 7, 2, 4, 10, 15, 14, 1, 11, 12, 6, 8, 3, 13],
   [2, 12, 6, 10, 0, 11, 8, 3, 4, 13, 7, 5, 15, 14, 1, 9],
   [12, 5, 1, 15, 14, 13, 4, 10, 0, 7, 6, 3, 9, 2, 8, 11],
   [13, 11, 7, 14, 12, 1, 3, 9, 5, 0, 15, 4, 8, 6, 2, 10],
   [6, 15, 14, 9, 11, 3, 0, 8, 12, 2, 13, 7, 1, 4, 10, 5],
   [10, 2, 8, 4, 7, 6, 1, 5, 15, 11, 9, 14, 3, 12, 13, 0]]

/-- The mixing function G of R417 on the words (v[a], v[b], v[c], v[d]) and the message words x and y. -/
def blakeG (a b c d x y : Word) : Word × Word × Word × Word :=
  let a1 := a + b + x
  let d1 := (d ^^^ a1).rotateRight 16
  let c1 := c + d1
  let b1 := (b ^^^ c1).rotateRight 12
  let a2 := a1 + b1 + y
  let d2 := (d1 ^^^ a2).rotateRight 8
  let c2 := c1 + d2
  let b2 := (b1 ^^^ c2).rotateRight 7
  (a2, b2, c2, d2)

/-- One round of R418: `m` holds the message words in the order SIGMA gives this round. -/
def blakeRound (v : Words16) (m : List Word) : Words16 :=
  let (a0, a4, a8, a12) := blakeG v.w0 v.w4 v.w8 v.w12 (m.getD 0 0) (m.getD 1 0)
  let (a1, a5, a9, a13) := blakeG v.w1 v.w5 v.w9 v.w13 (m.getD 2 0) (m.getD 3 0)
  let (a2, a6, a10, a14) := blakeG v.w2 v.w6 v.w10 v.w14 (m.getD 4 0) (m.getD 5 0)
  let (a3, a7, a11, a15) := blakeG v.w3 v.w7 v.w11 v.w15 (m.getD 6 0) (m.getD 7 0)
  let (b0, b5, b10, b15) := blakeG a0 a5 a10 a15 (m.getD 8 0) (m.getD 9 0)
  let (b1, b6, b11, b12) := blakeG a1 a6 a11 a12 (m.getD 10 0) (m.getD 11 0)
  let (b2, b7, b8, b13) := blakeG a2 a7 a8 a13 (m.getD 12 0) (m.getD 13 0)
  let (b3, b4, b9, b14) := blakeG a3 a4 a9 a14 (m.getD 14 0) (m.getD 15 0)
  ⟨b0, b1, b2, b3, b4, b5, b6, b7, b8, b9, b10, b11, b12, b13, b14, b15⟩

/-- The work vector `Comp2s` starts from (R418). -/
def blakeWork (h : Hash8 32) (t : Nat) (final : Bool) : Words16 where
  w0 := h.h0
  w1 := h.h1
  w2 := h.h2
  w3 := h.h3
  w4 := h.h4
  w5 := h.h5
  w6 := h.h6
  w7 := h.h7
  w8 := h256.h0
  w9 := h256.h1
  w10 := h256.h2
  w11 := h256.h3
  w12 := h256.h4 ^^^ BitVec.ofNat 32 t
  w13 := h256.h5 ^^^ BitVec.ofNat 32 (t / 2 ^ 32)
  w14 := if final then h256.h6 ^^^ 0xFFFFFFFF else h256.h6
  w15 := h256.h7

/-- `Comp2s(h, b, t, f)` of R418. -/
def comp2s (h : Hash8 32) (b : Bytes) (t : Nat) (final : Bool) : Hash8 32 :=
  let m := (List.range 16).map (fun i => le32 b (4 * i))
  let v := blakeSigma.foldl (fun v s => blakeRound v (s.map (fun i => m.getD i 0))) (blakeWork h t final)
  ⟨h.h0 ^^^ v.w0 ^^^ v.w8, h.h1 ^^^ v.w1 ^^^ v.w9, h.h2 ^^^ v.w2 ^^^ v.w10, h.h3 ^^^ v.w3 ^^^ v.w11,
   h.h4 ^^^ v.w4 ^^^ v.w12, h.h5 ^^^ v.w5 ^^^ v.w13, h.h6 ^^^ v.w6 ^^^ v.w14, h.h7 ^^^ v.w7 ^^^ v.w15⟩

/-- One turn of the loops of R419 and R426: the counter moves past the block, then the block is compressed. -/
def blakeBlock (ht : Hash8 32 × Nat) (b : Bytes) : Hash8 32 × Nat := (comp2s ht.1 b (ht.2 + 64) false, ht.2 + 64)

/-- The last block of R419 and R427: padded with zeros, compressed with the final flag and the total length. -/
def blakeLast (h : Hash8 32) (buf : Bytes) (t : Nat) : Bytes :=
  (comp2s h (buf ++ zeros (64 - buf.length)) (t + buf.length) true).toList.flatMap toLe32

/-- How many blocks are compressed before the last one: the loop of R419 and R426 runs while more than 64 bytes are
left. -/
def blakeFull (len : Nat) : Nat := (len - 1) / 64

/-- `BLAKE2S(m)` of R419. -/
def blake2s (m : Bytes) : Bytes :=
  let full := blakeFull m.length
  let ht := (pieces 64 full m).foldl blakeBlock (blake2sStart, 0)
  blakeLast ht.1 (m.drop (64 * full)) ht.2

/-- The context BLAKE2S_INIT opens (R425). -/
def blake2sInit : Blake2sCtx := ⟨blake2sStart, [], 0⟩

/-- The state change of BLAKE2S_ADD (R426): a possibly final block is held back. -/
def blake2sAdd (c : Blake2sCtx) (d : Bytes) : Blake2sCtx :=
  let all := c.buf ++ d
  let full := blakeFull all.length
  let ht := (pieces 64 full all).foldl blakeBlock (c.h, c.t)
  ⟨ht.1, all.drop (64 * full), ht.2⟩

/-- The output of BLAKE2S_CLOSE (R427). -/
def blake2sFinal (c : Blake2sCtx) : Bytes := blakeLast c.h c.buf c.t

end Sys2Proof.Machine
end

