-- ==== Sys2Proof/Machine/Hash.lean ====
section
/-! DEFINITION. The hash sink commands of 45_hash.md: R400 to R402, R410 to R412, R425 to R427, and the length limits of
R396, R409 and R420. -/

namespace Sys2Proof.Machine

/-- An ADD of `len` bytes would pass the SHA-256 length limit (R396). -/
def sha256TooLong (c : Sha2Ctx 32) (len : Nat) : Bool := decide (c.total + len ≥ 2 ^ 61)

/-- An ADD of `len` bytes would pass the SHA-512 length limit (R409). -/
def sha512TooLong (c : Sha2Ctx 64) (len : Nat) : Bool := decide (c.total + len ≥ 2 ^ 125)

/-- An ADD of `len` bytes would pass the BLAKE2s length limit (R420). -/
def blake2sTooLong (c : Blake2sCtx) (len : Nat) : Bool := decide (c.t + c.buf.length + len ≥ 2 ^ 64)

/-- The checks of an ADD command (R401): SRC in bounds, the sink open, the length limit not passed. -/
def State.addChecks (s : State) (isOpen tooLong : Bool) : List Check :=
  [s.addressCheck [s.srcRegion], (!isOpen, .sinkNotOpen), (tooLong, .invalidArgument)]

/-- The checks of a CLOSE command (R402): DST in bounds, the sink open, room for the digest. -/
def State.closeChecks (s : State) (isOpen : Bool) (outLen : Nat) : List Check :=
  [s.addressCheck [s.dstRegion], (!isOpen, .sinkNotOpen), s.capacityCheck outLen]

/-- SHA256_INIT (R400). -/
def execSha256Init (s : State) : Result := .next ({ s with sha256 := ⟨true, sha256Init⟩ }.finish 0)

/-- SHA256_ADD (R401). -/
def execSha256Add (s : State) : Result :=
  match firstError (s.addChecks s.sha256.isOpen (sha256TooLong s.sha256.ctx s.snap.srcLen.toNat)) with
  | some e => .next (s.raise e)
  | none => .next ({ s with sha256 := ⟨true, sha256Add s.sha256.ctx (s.input s.srcRegion)⟩ }.finish 0)

/-- SHA256_CLOSE (R402). -/
def execSha256Close (s : State) : Result :=
  match firstError (s.closeChecks s.sha256.isOpen 32) with
  | some e => .next (s.raise e)
  | none => .next ({ s with sha256 := .closed (.zero 32) }.output (sha256Final s.sha256.ctx))

/-- SHA512_INIT (R410). -/
def execSha512Init (s : State) : Result := .next ({ s with sha512 := ⟨true, sha512Init⟩ }.finish 0)

/-- SHA512_ADD (R411). -/
def execSha512Add (s : State) : Result :=
  match firstError (s.addChecks s.sha512.isOpen (sha512TooLong s.sha512.ctx s.snap.srcLen.toNat)) with
  | some e => .next (s.raise e)
  | none => .next ({ s with sha512 := ⟨true, sha512Add s.sha512.ctx (s.input s.srcRegion)⟩ }.finish 0)

/-- SHA512_CLOSE (R412). -/
def execSha512Close (s : State) : Result :=
  match firstError (s.closeChecks s.sha512.isOpen 64) with
  | some e => .next (s.raise e)
  | none => .next ({ s with sha512 := .closed (.zero 64) }.output (sha512Final s.sha512.ctx))

/-- BLAKE2S_INIT (R425). -/
def execBlake2sInit (s : State) : Result := .next ({ s with blake2s := ⟨true, blake2sInit⟩ }.finish 0)

/-- BLAKE2S_ADD (R426). -/
def execBlake2sAdd (s : State) : Result :=
  match firstError (s.addChecks s.blake2s.isOpen (blake2sTooLong s.blake2s.ctx s.snap.srcLen.toNat)) with
  | some e => .next (s.raise e)
  | none => .next ({ s with blake2s := ⟨true, blake2sAdd s.blake2s.ctx (s.input s.srcRegion)⟩ }.finish 0)

/-- BLAKE2S_CLOSE (R427). -/
def execBlake2sClose (s : State) : Result :=
  match firstError (s.closeChecks s.blake2s.isOpen 32) with
  | some e => .next (s.raise e)
  | none => .next ({ s with blake2s := .closed .zero }.output (blake2sFinal s.blake2s.ctx))

end Sys2Proof.Machine
end

