-- ==== Sys2Proof/Machine/Hmac.lean ====
section
/-! DEFINITION. HMAC and PBKDF2: the generic hash interface of 45_hash.md R421, the functions of 46_hmac_pbkdf2.md R440 to
R443 and the commands R445 to R450. -/

namespace Sys2Proof.Machine

/-- The hash an HSEL value selects (30_encoding.md R144). -/
inductive HashAlg where
  /-- HSEL = 0 -/
  | sha256
  /-- HSEL = 1 -/
  | sha512
  /-- HSEL = 2 -/
  | blake2s
deriving DecidableEq, Repr

/-- `B_h` of R144 and R421. -/
def HashAlg.blockLen : HashAlg → Nat
  | .sha256 => 64
  | .sha512 => 128
  | .blake2s => 64

/-- `L_h` of R144 and R421. -/
def HashAlg.digestLen : HashAlg → Nat
  | .sha256 => 32
  | .sha512 => 64
  | .blake2s => 32

/-- `Hash_h` of R421. -/
def HashAlg.hash (h : HashAlg) (m : Bytes) : Bytes :=
  match h with
  | .sha256 => Sys2Proof.Machine.sha256 m
  | .sha512 => Sys2Proof.Machine.sha512 m
  | .blake2s => Sys2Proof.Machine.blake2s m

/-- `HInit_h` of R421. -/
def HashAlg.init : HashAlg → HashCtx
  | .sha256 => .sha256 sha256Init
  | .sha512 => .sha512 sha512Init
  | .blake2s => .blake2s blake2sInit

/-- The kind of a context: the `hsel` field of R58. -/
def HashCtx.alg : HashCtx → HashAlg
  | .sha256 _ => .sha256
  | .sha512 _ => .sha512
  | .blake2s _ => .blake2s

/-- `HAdd_h(ctx, d)` of R421. -/
def HashCtx.add (c : HashCtx) (d : Bytes) : HashCtx :=
  match c with
  | .sha256 x => .sha256 (sha256Add x d)
  | .sha512 x => .sha512 (sha512Add x d)
  | .blake2s x => .blake2s (blake2sAdd x d)

/-- `HFinal_h(ctx)` of R421. -/
def HashCtx.final : HashCtx → Bytes
  | .sha256 x => sha256Final x
  | .sha512 x => sha512Final x
  | .blake2s x => blake2sFinal x

/-- The length limit of a context of its kind (R396, R409, R420). -/
def HashCtx.tooLong (c : HashCtx) (len : Nat) : Bool :=
  match c with
  | .sha256 x => sha256TooLong x len
  | .sha512 x => sha512TooLong x len
  | .blake2s x => blake2sTooLong x len

/-- `K0_h(K)` of R441: exactly B_h bytes. -/
def hmacKey (h : HashAlg) (k : Bytes) : Bytes :=
  let k' := if k.length > h.blockLen then h.hash k else k
  k' ++ zeros (h.blockLen - k'.length)

/-- `ikey_h(K)` of R441. -/
def hmacIkey (h : HashAlg) (k : Bytes) : Bytes := xorBytes (hmacKey h k) (rep 0x36 h.blockLen)

/-- `okey_h(K)` of R441. -/
def hmacOkey (h : HashAlg) (k : Bytes) : Bytes := xorBytes (hmacKey h k) (rep 0x5c h.blockLen)

/-- `HMAC_h(K, m)` of R440. -/
def hmac (h : HashAlg) (k m : Bytes) : Bytes := h.hash (hmacOkey h k ++ h.hash (hmacIkey h k ++ m))

/-- The context HMAC_INIT opens (R445). -/
def hmacInit (h : HashAlg) (k : Bytes) : HmacCtx := ⟨h.init.add (hmacIkey h k), hmacOkey h k⟩

/-- The output of HMAC_CLOSE (R447). -/
def hmacFinal (c : HmacCtx) : Bytes := c.inner.alg.hash (c.okey ++ c.inner.final)

/-- The inner loop of R443: `n` more iterations from U and T. -/
def pbkdf2Loop (h : HashAlg) (p : Bytes) : Nat → Bytes → Bytes → Bytes
  | 0, _, t => t
  | n + 1, u, t =>
    let u' := hmac h p u
    pbkdf2Loop h p n u' (xorBytes t u')

/-- `T_i` of R443, for `c` iterations. -/
def pbkdf2Block (h : HashAlg) (p salt : Bytes) (c i : Nat) : Bytes :=
  let u := hmac h p (salt ++ toBe i 4)
  pbkdf2Loop h p (c - 1) u u

/-- `PBKDF2_h(P, S, c, n)` of R443: as many blocks as the ceil(n/8) bytes need, cut to that length. -/
def pbkdf2 (h : HashAlg) (p salt : Bytes) (c bits : Nat) : Bytes :=
  let n := ceilDiv bits 8
  ((List.range' 1 (ceilDiv n h.digestLen)).flatMap (pbkdf2Block h p salt c)).take n

/-- HMAC_INIT for a hash (R445). -/
def State.hmacOpen (s : State) (h : HashAlg) : Result :=
  match firstError [s.addressCheck [s.keyRegion]] with
  | some e => .next (s.raise e)
  | none => .next ({ s with hmac := ⟨true, hmacInit h (s.input s.keyRegion)⟩ }.finish 0)

/-- HMAC_INIT.SHA256 (R445). -/
def execHmacInitSha256 (s : State) : Result := s.hmacOpen .sha256

/-- HMAC_INIT.SHA512 (R445). -/
def execHmacInitSha512 (s : State) : Result := s.hmacOpen .sha512

/-- HMAC_INIT.BLAKE2S (R445). -/
def execHmacInitBlake2s (s : State) : Result := s.hmacOpen .blake2s

/-- HMAC_ADD (R446). -/
def execHmacAdd (s : State) : Result :=
  match firstError (s.addChecks s.hmac.isOpen (s.hmac.ctx.inner.tooLong s.snap.srcLen.toNat)) with
  | some e => .next (s.raise e)
  | none =>
    let c := s.hmac.ctx
    .next ({ s with hmac := ⟨true, { c with inner := c.inner.add (s.input s.srcRegion) }⟩ }.finish 0)

/-- HMAC_CLOSE (R447). -/
def execHmacClose (s : State) : Result :=
  match firstError (s.closeChecks s.hmac.isOpen s.hmac.ctx.inner.alg.digestLen) with
  | some e => .next (s.raise e)
  | none => .next ({ s with hmac := .closed .zero }.output (hmacFinal s.hmac.ctx))

/-- The checks of R450. -/
def State.pbkdf2Checks (s : State) : List Check :=
  [s.addressCheck [s.keyRegion, s.nonceRegion, s.dstRegion],
   (decide (s.snap.iter.toNat = 0), .invalidArgument),
   s.capacityCheck (ceilDiv s.snap.arg.toNat 8)]

/-- PBKDF2 over HMAC of a hash (R450). -/
def State.pbkdf2Run (s : State) (h : HashAlg) : Result :=
  match firstError s.pbkdf2Checks with
  | some e => .next (s.raise e)
  | none =>
    .next (s.output
      (pbkdf2 h (s.input s.keyRegion) (s.input s.nonceRegion) s.snap.iter.toNat s.snap.arg.toNat))

/-- PBKDF2.SHA256 (R450). -/
def execPbkdf2Sha256 (s : State) : Result := s.pbkdf2Run .sha256

/-- PBKDF2.SHA512 (R450). -/
def execPbkdf2Sha512 (s : State) : Result := s.pbkdf2Run .sha512

/-- PBKDF2.BLAKE2S (R450). -/
def execPbkdf2Blake2s (s : State) : Result := s.pbkdf2Run .blake2s

end Sys2Proof.Machine
end

