-- ==== Sys2Proof/Machine/Poly1305.lean ====
section
/-! DEFINITION. Poly1305 and the ChaCha20-Poly1305 AEAD sequencer: the functions of 44_poly1305_aead.md R350 to R358,
the sink commands R360 to R362 and the AEAD commands R365 to R368. -/

namespace Sys2Proof.Machine

/-- `p = 2^130 - 5` of R350. -/
def polyP : Nat := 2 ^ 130 - 5

/-- `Clamp(K)` of R350: r. -/
def polyClamp (k : Bytes) : BitVec 128 :=
  BitVec.ofNat 128 (leInt (k.take 16)) &&& 0x0ffffffc0ffffffc0ffffffc0fffffff

/-- `SKey(K)` of R350: s. -/
def polySKey (k : Bytes) : BitVec 128 := BitVec.ofNat 128 (leInt (slice k 16 16))

/-- `Step(acc, r, c)` of R351. -/
def polyStep (r : BitVec 128) (acc : Nat) (c : Bytes) : Nat :=
  ((acc + leInt c + 2 ^ (8 * c.length)) * r.toNat) % polyP

/-- `Tag(acc, s)` of R352. -/
def polyTag (acc : Nat) (s : BitVec 128) : Bytes := toLe ((acc + s.toNat) % 2 ^ 128) 16

/-- `Poly1305(K, m)` of R353. -/
def poly1305 (k m : Bytes) : Bytes :=
  polyTag ((chunks 16 m).foldl (polyStep (polyClamp k)) 0) (polySKey k)

/-- The context POLY1305_INIT opens (R360). -/
def polyInit (k : Bytes) : Poly1305Ctx := ⟨polyClamp k, polySKey k, 0, []⟩

/-- The state change of POLY1305_ADD (R361): every completed 16-byte chunk is stepped at once. -/
def polyAdd (c : Poly1305Ctx) (d : Bytes) : Poly1305Ctx :=
  let all := c.buf ++ d
  let full := all.length / 16
  { c with acc := (pieces 16 full all).foldl (polyStep c.r) c.acc, buf := all.drop (16 * full) }

/-- The output of POLY1305_CLOSE (R362): a non-empty rest is stepped, then the tag. -/
def polyFinal (c : Poly1305Ctx) : Bytes :=
  polyTag (if c.buf.length > 0 then polyStep c.r c.acc c.buf else c.acc) c.s

/-- `OTK(k, n)` of R355. -/
def oneTimeKey (k n : Bytes) : Bytes := (chachaBlock k 0 n).take 32

/-- `MacData(a, c)` of R356. -/
def macData (a c : Bytes) : Bytes := pad16 a ++ pad16 c ++ toLe64 a.length ++ toLe64 c.length

/-- The tag of R356 over AAD and ciphertext. -/
def aeadTag (k n a c : Bytes) : Bytes := poly1305 (oneTimeKey k n) (macData a c)

/-- The ciphertext part of `AeadEnc(k, n, a, m)` (R357); its tag is `aeadTag` over it. -/
def aeadCipher (k n m : Bytes) : Bytes := chachaXor k n m 64

/-- `AeadDec(k, n, a, c, t)` of R357; `none` is AuthenticationFailure. -/
def aeadDec (k n a c t : Bytes) : Option Bytes :=
  if ctEq (aeadTag k n a c) t then some (chachaXor k n c 64) else none

/-- POLY1305_INIT (R360). -/
def execPoly1305Init (s : State) : Result :=
  match firstError [s.addressCheck [s.keyRegion], s.keyLenCheck [32]] with
  | some e => .next (s.raise e)
  | none => .next ({ s with poly1305 := ⟨true, polyInit (s.input s.keyRegion)⟩ }.finish 0)

/-- POLY1305_ADD (R361). -/
def execPoly1305Add (s : State) : Result :=
  match firstError [s.addressCheck [s.srcRegion], (!s.poly1305.isOpen, .sinkNotOpen)] with
  | some e => .next (s.raise e)
  | none => .next ({ s with poly1305 := ⟨true, polyAdd s.poly1305.ctx (s.input s.srcRegion)⟩ }.finish 0)

/-- POLY1305_CLOSE (R362). -/
def execPoly1305Close (s : State) : Result :=
  match firstError [s.addressCheck [s.dstRegion], (!s.poly1305.isOpen, .sinkNotOpen), s.capacityCheck 16] with
  | some e => .next (s.raise e)
  | none => .next ({ s with poly1305 := .closed .zero }.output (polyFinal s.poly1305.ctx))

/-- The checks of the AEAD commands before any work (R365, R366), for the nonce length of the command. -/
def State.aeadChecks (s : State) (nonceLen : Nat) : List Check :=
  [s.addressCheck [s.keyRegion, s.nonceRegion, s.aadRegion, s.srcRegion, s.dstRegion, s.tagRegion],
   s.keyLenCheck [32], s.nonceLenCheck [nonceLen], s.zeroOffsetCheck, s.capacityCheck s.snap.srcLen.toNat]

/-- Success of an AEAD encryption (R365): the ciphertext at DST, then the tag at TAG (20_memory.md R111). -/
def State.seal (s : State) (c t : Bytes) : State :=
  ((s.store s.dstRegion.addr c).store s.tagRegion.addr t).finish c.length

/-- AEAD encryption under a ChaCha20 key and a 12-byte nonce (R357, R365). -/
def State.aeadEncrypt (s : State) (k n : Bytes) : State :=
  let c := aeadCipher k n (s.input s.srcRegion)
  s.seal c (aeadTag k n (s.input s.aadRegion) c)

/-- AEAD decryption under a ChaCha20 key and a 12-byte nonce (R357, R366): on a tag mismatch nothing is written. -/
def State.aeadDecrypt (s : State) (k n : Bytes) : State :=
  match aeadDec k n (s.input s.aadRegion) (s.input s.srcRegion) (s.input s.tagRegion) with
  | none => s.raise .authenticationFailure
  | some m => s.output m

/-- C20P1305_ENC (R365). -/
def execC20p1305Enc (s : State) : Result :=
  match firstError (s.aeadChecks 12) with
  | some e => .next (s.raise e)
  | none => .next (s.aeadEncrypt (s.input s.keyRegion) (s.input s.nonceRegion))

/-- C20P1305_DEC (R366). -/
def execC20p1305Dec (s : State) : Result :=
  match firstError (s.aeadChecks 12) with
  | some e => .next (s.raise e)
  | none => .next (s.aeadDecrypt (s.input s.keyRegion) (s.input s.nonceRegion))

/-- XC20P1305_ENC (R367), under the derived key and nonce of R358. -/
def execXc20p1305Enc (s : State) : Result :=
  match firstError (s.aeadChecks 24) with
  | some e => .next (s.raise e)
  | none =>
    let k := s.input s.keyRegion
    let n := s.input s.nonceRegion
    .next (s.aeadEncrypt (xSubkey k n) (xNonce n))

/-- XC20P1305_DEC (R368), under the derived key and nonce of R358. -/
def execXc20p1305Dec (s : State) : Result :=
  match firstError (s.aeadChecks 24) with
  | some e => .next (s.raise e)
  | none =>
    let k := s.input s.keyRegion
    let n := s.input s.nonceRegion
    .next (s.aeadDecrypt (xSubkey k n) (xNonce n))

end Sys2Proof.Machine
end

