-- ==== Sys2Proof/Machine/Dispatch.lean ====
section
/-! DEFINITION. One arm per command: the completion of a command in a state (60_exceptions.md R511), each arm one call
of that command's meaning. -/

namespace Sys2Proof.Machine

def exec (i : Instr) (s : State) : Host.Outcome State Fault Refusal :=
  match i with
  | .nop => Sys2Proof.Machine.execNop s
  | .zeroize => Sys2Proof.Machine.execZeroize s
  | .ctCompare => Sys2Proof.Machine.execCtCompare s
  | .aesKeyexpEnc => Sys2Proof.Machine.execAesKeyexpEnc s
  | .aesKeyexpDec => Sys2Proof.Machine.execAesKeyexpDec s
  | .aesEncBlock => Sys2Proof.Machine.execAesEncBlock s
  | .aesDecBlock => Sys2Proof.Machine.execAesDecBlock s
  | .aesCbcEnc => Sys2Proof.Machine.execAesCbcEnc s
  | .aesCbcDec => Sys2Proof.Machine.execAesCbcDec s
  | .aesCtrEnc => Sys2Proof.Machine.execAesCtrEnc s
  | .aesCtrDec => Sys2Proof.Machine.execAesCtrDec s
  | .nonceInc => Sys2Proof.Machine.execNonceInc s
  | .chacha20Block => Sys2Proof.Machine.execChacha20Block s
  | .chacha20Enc => Sys2Proof.Machine.execChacha20Enc s
  | .chacha20Dec => Sys2Proof.Machine.execChacha20Dec s
  | .hchacha20 => Sys2Proof.Machine.execHchacha20 s
  | .xchacha20Enc => Sys2Proof.Machine.execXchacha20Enc s
  | .xchacha20Dec => Sys2Proof.Machine.execXchacha20Dec s
  | .poly1305Init => Sys2Proof.Machine.execPoly1305Init s
  | .poly1305Add => Sys2Proof.Machine.execPoly1305Add s
  | .poly1305Close => Sys2Proof.Machine.execPoly1305Close s
  | .c20p1305Enc => Sys2Proof.Machine.execC20p1305Enc s
  | .c20p1305Dec => Sys2Proof.Machine.execC20p1305Dec s
  | .xc20p1305Enc => Sys2Proof.Machine.execXc20p1305Enc s
  | .xc20p1305Dec => Sys2Proof.Machine.execXc20p1305Dec s
  | .sha256Init => Sys2Proof.Machine.execSha256Init s
  | .sha256Add => Sys2Proof.Machine.execSha256Add s
  | .sha256Close => Sys2Proof.Machine.execSha256Close s
  | .sha512Init => Sys2Proof.Machine.execSha512Init s
  | .sha512Add => Sys2Proof.Machine.execSha512Add s
  | .sha512Close => Sys2Proof.Machine.execSha512Close s
  | .blake2sInit => Sys2Proof.Machine.execBlake2sInit s
  | .blake2sAdd => Sys2Proof.Machine.execBlake2sAdd s
  | .blake2sClose => Sys2Proof.Machine.execBlake2sClose s
  | .hmacInitSha256 => Sys2Proof.Machine.execHmacInitSha256 s
  | .hmacInitSha512 => Sys2Proof.Machine.execHmacInitSha512 s
  | .hmacInitBlake2s => Sys2Proof.Machine.execHmacInitBlake2s s
  | .hmacAdd => Sys2Proof.Machine.execHmacAdd s
  | .hmacClose => Sys2Proof.Machine.execHmacClose s
  | .pbkdf2Sha256 => Sys2Proof.Machine.execPbkdf2Sha256 s
  | .pbkdf2Sha512 => Sys2Proof.Machine.execPbkdf2Sha512 s
  | .pbkdf2Blake2s => Sys2Proof.Machine.execPbkdf2Blake2s s

end Sys2Proof.Machine
end

