-- ==== Sys2Proof/Machine/HostPort.lean ====
section
/-! DEFINITION. The host's side of the core: the register map (10_state.md R30 to R52), the DMEM window (20_memory.md R103,
R104), what an access does while a command runs (70_reset_and_hazards.md R522 to R524), and one step of the host. -/

namespace Sys2Proof.Machine

/-- The operand registers by name. -/
inductive OpReg where
  | keyAddr
  | keyLen
  | nonceAddr
  | nonceLen
  | aadAddr
  | aadLen
  | srcAddr
  | srcLen
  | dstAddr
  | dstLen
  | tagAddr
  | ksiLo
  | ksiHi
  | arg
  | iter
deriving DecidableEq, Repr

/-- The registers of the register map by name. -/
inductive Reg where
  | id
  | version
  | ctrl
  | status
  | errcode
  | cmd
  | outLen
  | ksRounds
  | op (r : OpReg)
  | kse (i : Nat)
  | ksd (i : Nat)
deriving DecidableEq, Repr

/-- An operand register's value. -/
def OperandRegs.get (o : OperandRegs) : OpReg → Word
  | .keyAddr => o.keyAddr
  | .keyLen => o.keyLen
  | .nonceAddr => o.nonceAddr
  | .nonceLen => o.nonceLen
  | .aadAddr => o.aadAddr
  | .aadLen => o.aadLen
  | .srcAddr => o.srcAddr
  | .srcLen => o.srcLen
  | .dstAddr => o.dstAddr
  | .dstLen => o.dstLen
  | .tagAddr => o.tagAddr
  | .ksiLo => o.ksiLo
  | .ksiHi => o.ksiHi
  | .arg => o.arg
  | .iter => o.iter

/-- The operand registers with one of them written. -/
def OperandRegs.set (o : OperandRegs) (r : OpReg) (v : Word) : OperandRegs :=
  match r with
  | .keyAddr => { o with keyAddr := v }
  | .keyLen => { o with keyLen := v }
  | .nonceAddr => { o with nonceAddr := v }
  | .nonceLen => { o with nonceLen := v }
  | .aadAddr => { o with aadAddr := v }
  | .aadLen => { o with aadLen := v }
  | .srcAddr => { o with srcAddr := v }
  | .srcLen => { o with srcLen := v }
  | .dstAddr => { o with dstAddr := v }
  | .dstLen => { o with dstLen := v }
  | .tagAddr => { o with tagAddr := v }
  | .ksiLo => { o with ksiLo := v }
  | .ksiHi => { o with ksiHi := v }
  | .arg => { o with arg := v }
  | .iter => { o with iter := v }

/-- The offsets of the operand registers (section 1 of 10_state.md). -/
def OpReg.offset : OpReg → Nat
  | .keyAddr => 0x020
  | .keyLen => 0x024
  | .nonceAddr => 0x028
  | .nonceLen => 0x02C
  | .aadAddr => 0x030
  | .aadLen => 0x034
  | .srcAddr => 0x038
  | .srcLen => 0x03C
  | .dstAddr => 0x040
  | .dstLen => 0x044
  | .tagAddr => 0x048
  | .ksiLo => 0x04C
  | .ksiHi => 0x050
  | .arg => 0x054
  | .iter => 0x058

/-- The offsets of the registers (section 1 of 10_state.md). -/
def Reg.offset : Reg → Nat
  | .id => 0x000
  | .version => 0x004
  | .ctrl => 0x008
  | .status => 0x00C
  | .errcode => 0x010
  | .cmd => 0x014
  | .outLen => 0x018
  | .ksRounds => 0x01C
  | .op r => r.offset
  | .kse i => 0x100 + 4 * i
  | .ksd i => 0x200 + 4 * i

/-- The registers that lie below the schedule windows, in the order of their offsets. -/
def namedRegs : List Reg :=
  [.id, .version, .ctrl, .status, .errcode, .cmd, .outLen, .ksRounds,
   .op .keyAddr, .op .keyLen, .op .nonceAddr, .op .nonceLen, .op .aadAddr, .op .aadLen, .op .srcAddr, .op .srcLen,
   .op .dstAddr, .op .dstLen, .op .tagAddr, .op .ksiLo, .op .ksiHi, .op .arg, .op .iter]

/-- The register at a 4-byte aligned offset below 0x10000; `none` is a reserved offset (R50). -/
def Reg.ofOffset (off : Nat) : Option Reg :=
  if off < 0x05C then namedRegs[off / 4]?
  else if 0x100 ≤ off ∧ off < 0x1F0 then some (.kse ((off - 0x100) / 4))
  else if 0x200 ≤ off ∧ off < 0x2F0 then some (.ksd ((off - 0x200) / 4))
  else none

/-- What a host read of a register returns: its current value (R30 to R49, R522). -/
def State.readReg (s : State) : Reg → Word
  | .id => 0x44435259
  | .version => 0x00070000
  | .ctrl => s.ctrlWord
  | .status => s.statusWord
  | .errcode => s.errcodeWord
  | .cmd => s.cmd
  | .outLen => s.outLen
  | .ksRounds => s.ksRoundsWord
  | .op r => s.ops.get r
  | .kse i => s.kse.words.toList.getD i 0
  | .ksd i => s.ksd.words.toList.getD i 0

/-- What a host write of a register does (R30 to R49). A write to a read-only register is ignored (R52). While BUSY a
write to any register but STATUS and CTRL is dropped and sets WERR (R36, R522, 92_eei_decisions.md D46; for the read-only
ones DEDUCED, log entry 11). -/
def State.writeReg (s : State) (r : Reg) (v : Word) : State :=
  match r with
  | .ctrl => s.writeCtrl v
  | .status => s.writeStatus v
  | .cmd => if s.busy then s.refuseAccess else s.accept v
  | .op r => if s.busy then s.refuseAccess else { s with ops := s.ops.set r v }
  | .id | .version | .errcode | .outLen | .ksRounds | .kse _ | .ksd _ => if s.busy then s.refuseAccess else s

/-- The number of bytes of an access. -/
def Width.bytes : Width → Nat
  | .w8 => 1
  | .w16 => 2
  | .w32 => 4

/-- The value truncated to an access's width (DEDUCED, log entry 18). -/
def Width.truncate (w : Width) (v : Word) : Word := (v.setWidth (8 * w.bytes)).setWidth 32

/-- Where the DMEM window starts (R51, R113). -/
def dmemBase : Nat := 0x10000

/-- A register access has the form R52 asks for: 32-bit and 4-byte aligned. It is tested before anything else (DEDUCED,
log entry 10). -/
def regAccessOk (w : Width) (off : Nat) : Bool := w == .w32 && off % 4 == 0

/-- An offset lies in the DMEM window (R51). From the window's end upward offsets are reserved under R50, at
every width (DEDUCED, log entry 9). -/
def State.inWindow (s : State) (off : Nat) : Bool :=
  decide (dmemBase ≤ off ∧ off < dmemBase + s.params.dmemSize)

/-- A DMEM access has the form R103 and R104 ask for: aligned to its size and inside the window to its last byte. -/
def State.dmemAccessOk (s : State) (w : Width) (off : Nat) : Bool :=
  decide (off % w.bytes = 0 ∧ off + w.bytes ≤ dmemBase + s.params.dmemSize)

/-- The state after a DMEM read while BUSY: one draw is used up (R522), and WERR is set when the access does not have
the form of R104 (93_implementation_defined.md I15; DEDUCED, log entry 8). -/
def State.afterBusyRead (s : State) (w : Width) (off : Nat) : State :=
  { s with werr := s.werr || !s.dmemAccessOk w off, draws := s.draws + 1 }

/-- A host read: the value returned and the state after it (R50, R52, R103, R104, R109, R522). While BUSY every DMEM
read returns a draw, whatever its form (DEDUCED, log entry 8). -/
def State.hostRead (s : State) (w : Width) (off : Nat) : Word × State :=
  if off < dmemBase then
    if regAccessOk w off then
      match Reg.ofOffset off with
      | some r => (s.readReg r, s)
      | none => (0, s)
    else (0, s.refuseAccess)
  else if s.inWindow off then
    if s.busy then (w.truncate (Config.busyDmemRead s.draws), s.afterBusyRead w off)
    else if s.dmemAccessOk w off then
      (BitVec.ofNat 32 (leInt (Memory.readBytes s.dmem (off - dmemBase) w.bytes)), s)
    else (0, s.refuseAccess)
  else (0, s)

/-- A host write (R50, R52, R103, R104, R522): the state after it. -/
def State.hostWrite (s : State) (w : Width) (off : Nat) (v : Word) : State :=
  if off < dmemBase then
    if regAccessOk w off then
      match Reg.ofOffset off with
      | some r => s.writeReg r v
      | none => s
    else s.refuseAccess
  else if s.inWindow off then
    if s.busy then s.refuseAccess
    else if s.dmemAccessOk w off then s.store (off - dmemBase) (toLe v.toNat w.bytes)
    else s.refuseAccess
  else s

/-- The state with the value a read returned in the host's hands. -/
def State.receive (r : Word × State) : State := { r.2 with hostData := r.1 }

/-- The host does one thing of its agenda (30_encoding.md R160; how it waits and stops: DEDUCED, log entry 13): `s` no
longer lists it. -/
def State.hostDo (s : State) (op : HostOp) : State :=
  match op with
  | .read w off => State.receive (s.hostRead w off)
  | .write w off v => s.hostWrite w off v
  | .expect w off v =>
    let r := s.hostRead w off
    { State.receive r with checkFailed := s.checkFailed || r.1 != v }
  | .wait skip =>
    let r := s.hostRead .w32 Reg.status.offset
    if s.busy then { State.receive r with host := .wait skip :: s.host }
    else if s.err then { State.receive r with host := s.host.drop skip }
    else State.receive r

/-- The host's turn: the first thing of its agenda, or nothing (R118). -/
def State.hostTurn (s : State) : State :=
  match s.host with
  | [] => s
  | op :: rest => State.hostDo { s with host := rest } op

/-- The register-map offset of an address of the host's space, for a core placed at CORE_BASE (R102). -/
def busOffset (p : Params) (addr : Nat) : Option Nat :=
  if p.coreBase ≤ addr then some (addr - p.coreBase) else none

end Sys2Proof.Machine
end

