-- ==== Sys2Proof/Machine/Complete.lean ====
section
/-! DEFINITION. What a step is made of: the completion of a running command (60_exceptions.md R471, R472, R511), a turn
of the host while a command runs, and the end of a run (70_reset_and_hazards.md R534). -/

namespace Sys2Proof.Machine

/-- The completion step of a command whose CMD value is `cmd`: the command's own rule, or IllegalCommand when the value
is not legal (30_encoding.md R142). -/
def State.complete (s : State) (cmd : Word) : Result :=
  match decode cmd with
  | .ok i => exec i s
  | .error _ => .next (s.raise .illegalCommand)

/-- A step of a BUSY core that is not its completion: the host's turn, with `left` steps before the completion
(R550). -/
def State.pending (s : State) (snap : Snapshot) (left : Nat) : State :=
  State.hostTurn { s with phase := .busy snap left }

/-- The end of a run (R534): a running command's completion is taken; an IDLE core stays as it is. -/
def State.endOfRun (s : State) : Result :=
  match s.phase with
  | .idle => .next s
  | .busy snap _ => s.complete snap.cmd

end Sys2Proof.Machine
end

