-- ==== Sys2Proof/Machine/Step.lean ====
section
/-! DEFINITION. One step of the machine: the completion of a running command, or a turn of the host (20_memory.md R118 to
R121). -/

namespace Sys2Proof.Machine

/-- One step: a BUSY core with no step left completes its command; else the host takes its turn, and a BUSY core
comes one step nearer its completion. -/
def step (s : State) : Host.Outcome State Fault Refusal :=
  match s.phase with
  | .idle => .next s.hostTurn
  | .busy snap 0 => s.complete snap.cmd
  | .busy snap (left + 1) => .next (s.pending snap left)

/-- The state just after an accepted CMD write of the word with the bits `w`, due to complete in the very next step
(log entry 7). -/
def State.withFetchWord (s : State) (_nbits w : Nat) : State := s.launch (BitVec.ofNat 32 w) 0

end Sys2Proof.Machine
end

