-- ==== Sys2Proof/Machine/Script.lean ====
section
/-! DEFINITION. Host scripts (30_encoding.md R160 to R166): the statements, what each does on the host port, and a
script placed in the host's hands. -/

namespace Sys2Proof.Machine

/-- The descriptors with a shorthand of their own (R161). -/
inductive Descriptor where
  | key
  | nonce
  | aad
  | src
  | dst
deriving DecidableEq, Repr

/-- The statements of R160, the shorthands of R161, `run` of R163 and the pseudo-commands of R164. -/
inductive Stmt where
  | set (r : Reg) (v : Word)
  | data (a : Nat) (bytes : Bytes)
  | fill (a n : Nat) (b : Byte)
  | exec (i : Instr)
  | execRaw (v : Word)
  | wait
  | check (r : Reg) (v : Word)
  | checkmem (a : Nat) (bytes : Bytes)
  | clear
  | describe (d : Descriptor) (a n : Word)
  | tag (a : Word)
  | ksi (v : Nat)
  | arg (v : Word)
  | iter (v : Word)
  | run (i : Instr)
  | sha256
  | sha512
  | blake2s
  | poly1305
  | hmac (h : HashAlg)
deriving DecidableEq, Repr

/-- `set REG, v`: one 32-bit write (R160). -/
def setReg (r : Reg) (v : Word) : HostOp := .write .w32 r.offset v

/-- The 8-bit writes of `data` (R160). -/
def dataOps : Nat → Bytes → List HostOp
  | _, [] => []
  | a, b :: bs => .write .w8 (dmemBase + a) (b.setWidth 32) :: dataOps (a + 1) bs

/-- The 8-bit reads of `checkmem` (R160). -/
def checkOps : Nat → Bytes → List HostOp
  | _, [] => []
  | a, b :: bs => .expect .w8 (dmemBase + a) (b.setWidth 32) :: checkOps (a + 1) bs

/-- `exec MNEMONIC`: one write to CMD of the command's encoding (R162). -/
def execOp (i : Instr) : HostOp := setReg .cmd (encode i)

/-- `run M` and the steps of a pseudo-command after it: M, the wait, and the rest unless M failed (R163, R164). -/
def runThen (i : Instr) (rest : List HostOp) : List HostOp := execOp i :: .wait rest.length :: rest

/-- INIT, ADD and CLOSE in order, stopping at the first step that fails (R164). -/
def sinkOps (init add close : Instr) : List HostOp := runThen init (runThen add (runThen close []))

/-- The two registers of a descriptor (R161). -/
def Descriptor.regs : Descriptor → OpReg × OpReg
  | .key => (.keyAddr, .keyLen)
  | .nonce => (.nonceAddr, .nonceLen)
  | .aad => (.aadAddr, .aadLen)
  | .src => (.srcAddr, .srcLen)
  | .dst => (.dstAddr, .dstLen)

/-- HMAC_INIT with a hash suffix (R162). -/
def hmacInitInstr : HashAlg → Instr
  | .sha256 => .hmacInitSha256
  | .sha512 => .hmacInitSha512
  | .blake2s => .hmacInitBlake2s

/-- The host accesses a statement denotes (R160, R165). -/
def Stmt.ops : Stmt → List HostOp
  | .set r v => [setReg r v]
  | .data a bytes => dataOps a bytes
  | .fill a n b => dataOps a (rep b n)
  | .exec i => [execOp i]
  | .execRaw v => [setReg .cmd v]
  | .wait => [.wait 0]
  | .check r v => [.expect .w32 r.offset v]
  | .checkmem a bytes => checkOps a bytes
  | .clear => [setReg .status 0x00000046]
  | .describe d a n => [setReg (.op d.regs.1) a, setReg (.op d.regs.2) n]
  | .tag a => [setReg (.op .tagAddr) a]
  | .ksi v => [setReg (.op .ksiLo) (BitVec.ofNat 32 v), setReg (.op .ksiHi) (BitVec.ofNat 32 (v / 2 ^ 32))]
  | .arg v => [setReg (.op .arg) v]
  | .iter v => [setReg (.op .iter) v]
  | .run i => runThen i []
  | .sha256 => sinkOps .sha256Init .sha256Add .sha256Close
  | .sha512 => sinkOps .sha512Init .sha512Add .sha512Close
  | .blake2s => sinkOps .blake2sInit .blake2sAdd .blake2sClose
  | .poly1305 => sinkOps .poly1305Init .poly1305Add .poly1305Close
  | .hmac h => sinkOps (hmacInitInstr h) .hmacAdd .hmacClose

/-- The encoding of a script: the host accesses of its statements, in order (R165). -/
def scriptOps (script : List Stmt) : List HostOp := script.flatMap Stmt.ops

/-- The state with a script at the end of the host's agenda. -/
def State.withScript (s : State) (script : List Stmt) : State := { s with host := s.host ++ scriptOps script }

end Sys2Proof.Machine
end

