-- ==== Sys2Proof/Safety.lean ====
section
/-! DEFINITION. The terms claims are stated in: the machine's invariant (10_state.md R53 to R59, and the sink rules of
45_hash.md and 44_poly1305_aead.md), the launch premises of 70_reset_and_hazards.md R531, what a command may touch
(30_encoding.md R146) and report (60_exceptions.md R475), and what a completion changes. -/

namespace Sys2Proof.Machine

/-! ## What a completion changes -/

/-- `t` is `s` after a successful completion with OUT_LEN = n (R471): besides what the command itself writes, only
ERRCODE, OUT_LEN, ERR, DONE and the phase change. `w` is `s` with the command's own writes. -/
def Succeeds (w : State) (n : Nat) (t : State) : Prop :=
  t = { w with errcode := .success, outLen := BitVec.ofNat 32 n, err := false, done := true, phase := .idle }

/-- `t` is `s` after an error completion (R472): nothing else changes. -/
def Fails (s : State) (e : ErrCode) (t : State) : Prop :=
  t = { s with errcode := e, outLen := 0, err := true, done := true, phase := .idle }

/-- After `out` was written at `addr` over the memory `m`, every byte of `m'` is the written one inside the written
range and the old one outside it. -/
def Wrote (m : Memory) (addr : Nat) (out : Bytes) (m' : Memory) : Prop :=
  ∀ a, m'.read a = if addr ≤ a ∧ a < addr + out.length then out.getD (a - addr) 0 else m.read a

/-- A command whose only output is `out` at DST succeeded: the bytes are there, every other byte of DMEM and every
other field is unchanged, and OUT_LEN is the number of bytes (R471, 20_memory.md R111). `w` is `s` with the command's
writes to internal state. -/
def Outputs (w : State) (out : Bytes) (t : State) : Prop :=
  Wrote w.dmem w.dstRegion.addr out t.dmem ∧ Succeeds { w with dmem := t.dmem } out.length t

/-! ## What a command names and reports -/

/-- The regions a command names, in the order of R474, from the operand matrix of R146 (entries R and W). -/
def commandRegions (s : State) : Instr → List Region
  | .nop | .zeroize | .sha256Init | .sha512Init | .blake2sInit => []
  | .ctCompare => [s.srcRegion, s.cmpRegion]
  | .aesKeyexpEnc | .aesKeyexpDec | .poly1305Init => [s.keyRegion]
  | .hmacInitSha256 | .hmacInitSha512 | .hmacInitBlake2s => [s.keyRegion]
  | .aesEncBlock | .aesDecBlock => [s.srcRegion, s.dstRegion]
  | .aesCbcEnc | .aesCbcDec | .aesCtrEnc | .aesCtrDec => [s.keyRegion, s.nonceRegion, s.srcRegion, s.dstRegion]
  | .chacha20Enc | .chacha20Dec | .xchacha20Enc | .xchacha20Dec =>
    [s.keyRegion, s.nonceRegion, s.srcRegion, s.dstRegion]
  | .nonceInc => [s.nonceRegion, s.dstRegion]
  | .chacha20Block | .hchacha20 => [s.keyRegion, s.nonceRegion, s.dstRegion]
  | .pbkdf2Sha256 | .pbkdf2Sha512 | .pbkdf2Blake2s => [s.keyRegion, s.nonceRegion, s.dstRegion]
  | .c20p1305Enc | .c20p1305Dec | .xc20p1305Enc | .xc20p1305Dec =>
    [s.keyRegion, s.nonceRegion, s.aadRegion, s.srcRegion, s.dstRegion, s.tagRegion]
  | .poly1305Add | .sha256Add | .sha512Add | .blake2sAdd | .hmacAdd => [s.srcRegion]
  | .poly1305Close | .sha256Close | .sha512Close | .blake2sClose | .hmacClose => [s.dstRegion]

/-- The errors a command can complete with (R475). -/
def possibleErrors : Instr → List ErrCode
  | .nop | .zeroize | .sha256Init | .sha512Init | .blake2sInit => []
  | .ctCompare => [.addressError]
  | .aesKeyexpEnc | .aesKeyexpDec | .poly1305Init => [.addressError, .invalidKeyLength]
  | .aesEncBlock | .aesDecBlock => [.addressError, .keyNotLoaded, .bufferTooShort]
  | .aesCbcEnc | .aesCtrEnc | .aesCtrDec | .chacha20Enc | .chacha20Dec | .xchacha20Enc | .xchacha20Dec =>
    [.addressError, .unsupportedOperation, .invalidKeyLength, .invalidNonceLength, .invalidOffset, .bufferTooShort]
  | .aesCbcDec =>
    [.addressError, .unsupportedOperation, .invalidKeyLength, .invalidNonceLength, .invalidOffset, .invalidArgument,
     .invalidPadding, .bufferTooShort]
  | .nonceInc => [.addressError, .invalidNonceLength, .bufferTooShort]
  | .chacha20Block | .hchacha20 => [.addressError, .invalidKeyLength, .invalidNonceLength, .bufferTooShort]
  | .poly1305Add => [.addressError, .sinkNotOpen]
  | .sha256Add | .sha512Add | .blake2sAdd | .hmacAdd => [.addressError, .sinkNotOpen, .invalidArgument]
  | .poly1305Close | .sha256Close | .sha512Close | .blake2sClose | .hmacClose =>
    [.addressError, .sinkNotOpen, .bufferTooShort]
  | .c20p1305Enc | .xc20p1305Enc =>
    [.addressError, .invalidKeyLength, .invalidNonceLength, .invalidOffset, .bufferTooShort]
  | .c20p1305Dec | .xc20p1305Dec =>
    [.addressError, .invalidKeyLength, .invalidNonceLength, .invalidOffset, .bufferTooShort, .authenticationFailure]
  | .hmacInitSha256 | .hmacInitSha512 | .hmacInitBlake2s => [.addressError]
  | .pbkdf2Sha256 | .pbkdf2Sha512 | .pbkdf2Blake2s => [.addressError, .invalidArgument, .bufferTooShort]

/-- The commands that write the AEAD tag (R146). -/
def writesTag : Instr → Bool
  | .c20p1305Enc | .xc20p1305Enc => true
  | _ => false

/-- Every region of the list fits in DMEM (20_memory.md R105). -/
def State.allFit (s : State) (regions : List Region) : Prop :=
  ∀ r ∈ regions, r.addr + r.len ≤ s.params.dmemSize

/-! ## The checks of 60_exceptions.md R474, from the rules' Checks lines -/

/-- The KEY_LEN values a command takes; `none`: it has no key-length error. -/
def keyLengths : Instr → Option (List Nat)
  | .aesKeyexpEnc | .aesKeyexpDec | .aesCbcEnc | .aesCbcDec | .aesCtrEnc | .aesCtrDec => some [16, 24, 32]
  | .chacha20Block | .chacha20Enc | .chacha20Dec | .hchacha20 | .xchacha20Enc | .xchacha20Dec => some [32]
  | .poly1305Init | .c20p1305Enc | .c20p1305Dec | .xc20p1305Enc | .xc20p1305Dec => some [32]
  | .nop | .zeroize | .ctCompare | .aesEncBlock | .aesDecBlock | .nonceInc | .poly1305Add | .poly1305Close => none
  | .sha256Init | .sha256Add | .sha256Close | .sha512Init | .sha512Add | .sha512Close => none
  | .blake2sInit | .blake2sAdd | .blake2sClose | .hmacInitSha256 | .hmacInitSha512 | .hmacInitBlake2s => none
  | .hmacAdd | .hmacClose | .pbkdf2Sha256 | .pbkdf2Sha512 | .pbkdf2Blake2s => none

/-- The NONCE_LEN values a command takes; `none`: it has no nonce-length error. -/
def nonceLengths (p : Params) : Instr → Option (List Nat)
  | .aesCbcEnc | .aesCbcDec | .hchacha20 => some [16]
  | .aesCtrEnc | .aesCtrDec => some (ctrNonceLengths p.ctrNonceLens)
  | .nonceInc => some [4, 5, 6, 7, 8, 9, 10, 11, 12, 13, 14, 15, 16]
  | .chacha20Block | .chacha20Enc | .chacha20Dec | .c20p1305Enc | .c20p1305Dec => some [12]
  | .xchacha20Enc | .xchacha20Dec | .xc20p1305Enc | .xc20p1305Dec => some [24]
  | .nop | .zeroize | .ctCompare | .aesKeyexpEnc | .aesKeyexpDec | .aesEncBlock | .aesDecBlock => none
  | .poly1305Init | .poly1305Add | .poly1305Close => none
  | .sha256Init | .sha256Add | .sha256Close | .sha512Init | .sha512Add | .sha512Close => none
  | .blake2sInit | .blake2sAdd | .blake2sClose | .hmacInitSha256 | .hmacInitSha512 | .hmacInitBlake2s => none
  | .hmacAdd | .hmacClose | .pbkdf2Sha256 | .pbkdf2Sha512 | .pbkdf2Blake2s => none

/-- The commands for which AAD_LEN must be 0: the `L` entries of R146. -/
def aadForbidden : Instr → Bool
  | .aesCbcEnc | .aesCbcDec | .aesCtrEnc | .aesCtrDec => true
  | .chacha20Enc | .chacha20Dec | .xchacha20Enc | .xchacha20Dec => true
  | _ => false

/-- KeyNotLoaded applies (R237, R238). -/
def State.keyMissing (s : State) : Instr → Bool
  | .aesEncBlock => s.kse.nr.nr == 0
  | .aesDecBlock => s.ksd.nr.nr == 0
  | _ => false

/-- SinkNotOpen applies: ADD or CLOSE on a closed context (R470). -/
def State.sinkShut (s : State) : Instr → Bool
  | .poly1305Add | .poly1305Close => !s.poly1305.isOpen
  | .sha256Add | .sha256Close => !s.sha256.isOpen
  | .sha512Add | .sha512Close => !s.sha512.isOpen
  | .blake2sAdd | .blake2sClose => !s.blake2s.isOpen
  | .hmacAdd | .hmacClose => !s.hmac.isOpen
  | _ => false

/-- InvalidOffset applies (R280 to R283, R316, R365, R366). -/
def State.offsetBad (s : State) : Instr → Bool
  | .aesCbcEnc | .aesCbcDec | .c20p1305Enc | .c20p1305Dec | .xc20p1305Enc | .xc20p1305Dec => s.ksi != 0
  | .aesCtrEnc | .aesCtrDec => decide (s.ksi % 16 ≠ 0 ∨ 2 ^ 32 ≤ s.ksi / 16)
  | .chacha20Enc | .chacha20Dec | .xchacha20Enc | .xchacha20Dec =>
    decide (2 ^ 32 ≤ (s.ksi + max s.snap.srcLen.toNat 1 - 1) / 64)
  | _ => false

/-- The length limit of a context of its kind would be passed (R396, R409, R420). -/
def HashCtx.overflows (len : Nat) : HashCtx → Bool
  | .sha256 c => decide (2 ^ 61 ≤ c.total + len)
  | .sha512 c => decide (2 ^ 125 ≤ c.total + len)
  | .blake2s c => decide (2 ^ 64 ≤ c.t + c.buf.length + len)

/-- InvalidArgument applies (R281, R401, R411, R426, R446, R450). -/
def State.argumentBad (s : State) : Instr → Bool
  | .aesCbcDec => s.snap.srcLen.toNat == 0 || s.snap.srcLen.toNat % 16 != 0
  | .sha256Add => (HashCtx.sha256 s.sha256.ctx).overflows s.snap.srcLen.toNat
  | .sha512Add => (HashCtx.sha512 s.sha512.ctx).overflows s.snap.srcLen.toNat
  | .blake2sAdd => (HashCtx.blake2s s.blake2s.ctx).overflows s.snap.srcLen.toNat
  | .hmacAdd => s.hmac.ctx.inner.overflows s.snap.srcLen.toNat
  | .pbkdf2Sha256 | .pbkdf2Sha512 | .pbkdf2Blake2s => s.snap.iter.toNat == 0
  | _ => false

/-- BufferTooShort applies, by the lengths alone (step 9 of R474): the DST capacity a command needs, or the 16 source
bytes of a single-block command. -/
def State.tooShort (s : State) : Instr → Bool
  | .aesEncBlock | .aesDecBlock => decide (s.snap.srcLen.toNat < 16 ∨ s.snap.dstLen.toNat = 0)
  | .aesCbcEnc => decide (s.snap.dstLen.toNat < s.snap.srcLen.toNat + 16 - s.snap.srcLen.toNat % 16)
  | .aesCtrEnc | .aesCtrDec | .chacha20Enc | .chacha20Dec | .xchacha20Enc | .xchacha20Dec =>
    decide (s.snap.dstLen.toNat < s.snap.srcLen.toNat)
  | .c20p1305Enc | .c20p1305Dec | .xc20p1305Enc | .xc20p1305Dec =>
    decide (s.snap.dstLen.toNat < s.snap.srcLen.toNat)
  | .nonceInc => decide (s.snap.dstLen.toNat < s.snap.nonceLen.toNat)
  | .chacha20Block | .sha512Close => decide (s.snap.dstLen.toNat < 64)
  | .hchacha20 | .sha256Close | .blake2sClose => decide (s.snap.dstLen.toNat < 32)
  | .poly1305Close => decide (s.snap.dstLen.toNat < 16)
  | .hmacClose => decide (s.snap.dstLen.toNat < s.hmac.ctx.inner.alg.digestLen)
  | .pbkdf2Sha256 | .pbkdf2Sha512 | .pbkdf2Blake2s => decide (s.snap.dstLen.toNat < (s.snap.arg.toNat + 7) / 8)
  | _ => false

/-- An error of steps 2 to 9 of R474 applies to a command: each depends on the snapshot and the internal state only. -/
def State.applies (s : State) (i : Instr) : ErrCode → Bool
  | .addressError => (commandRegions s i).any (fun r => decide (s.params.dmemSize < r.addr + r.len))
  | .keyNotLoaded => s.keyMissing i
  | .sinkNotOpen => s.sinkShut i
  | .unsupportedOperation => aadForbidden i && s.snap.aadLen.toNat != 0
  | .invalidKeyLength =>
    match keyLengths i with
    | some ls => !ls.contains s.snap.keyLen.toNat
    | none => false
  | .invalidNonceLength =>
    match nonceLengths s.params i with
    | some ls => !ls.contains s.snap.nonceLen.toNat
    | none => false
  | .invalidOffset => s.offsetBad i
  | .invalidArgument => s.argumentBad i
  | .bufferTooShort => s.tooShort i
  | .success | .illegalCommand | .invalidPadding | .authenticationFailure => false

/-- The order of steps 2 to 9 of R474. -/
def checkOrder : List ErrCode :=
  [.addressError, .keyNotLoaded, .sinkNotOpen, .unsupportedOperation, .invalidKeyLength, .invalidNonceLength,
   .invalidOffset, .invalidArgument, .bufferTooShort]

/-- The first error of steps 2 to 9 of R474 that applies. -/
def State.firstApplicable (s : State) (i : Instr) : Option ErrCode := checkOrder.find? (s.applies i)

/-- The commands that can still fail during the work (step 10 of R474). -/
def failsInWork : Instr → Bool
  | .aesCbcDec | .c20p1305Dec | .xc20p1305Dec => true
  | _ => false

/-! ## Formulas claims use -/

/-- Two outputs were written, the one at `dst` first and the tag second: where they overlap the tag's bytes stand
(20_memory.md R111). -/
def WroteBoth (m : Memory) (dst : Nat) (c : Bytes) (tag : Nat) (t : Bytes) (m' : Memory) : Prop :=
  ∀ a, m'.read a =
    if tag ≤ a ∧ a < tag + t.length then t.getD (a - tag) 0
    else if dst ≤ a ∧ a < dst + c.length then c.getD (a - dst) 0
    else m.read a

/-- An AEAD encryption with ciphertext `c` and tag `t` succeeded (R365): DST and TAG hold them, every other byte of
DMEM and every other field is unchanged, and OUT_LEN is the number of ciphertext bytes. -/
def Seals (s : State) (c t : Bytes) (u : State) : Prop :=
  WroteBoth s.dmem s.dstRegion.addr c s.tagRegion.addr t u.dmem ∧ Succeeds { s with dmem := u.dmem } c.length u

/-- The affine map of 41_aes_engine.md R221: bit i is b[i] ^ b[i+4] ^ b[i+5] ^ b[i+6] ^ b[i+7] ^ 0x63[i], indices modulo
8 (rotating right by k moves bit i + k to bit i). -/
def sboxAffine (b : Byte) : Byte :=
  b ^^^ b.rotateRight 4 ^^^ b.rotateRight 5 ^^^ b.rotateRight 6 ^^^ b.rotateRight 7 ^^^ 0x63

/-- `U_j` of 46_hmac_pbkdf2.md R443, for the block index i: U_1 is over the salt and the index, U_(j+1) over U_j. -/
def pbkdf2U (h : HashAlg) (p salt : Bytes) (i : Nat) : Nat → Bytes
  | 0 => []
  | 1 => hmac h p (salt ++ toBe i 4)
  | j + 2 => hmac h p (pbkdf2U h p salt i (j + 1))

/-! ## What a sink holds -/

/-- R354: ctx.POLY1305 is open and the bytes `d` were added since INIT with the key `key`. -/
def State.polyHolds (s : State) (key d : Bytes) : Prop :=
  s.poly1305.isOpen = true ∧ s.poly1305.ctx.buf.length < 16 ∧
  s.poly1305.ctx.r = polyClamp key ∧ s.poly1305.ctx.s = polySKey key ∧
  ∃ whole, d = whole ++ s.poly1305.ctx.buf ∧ whole.length % 16 = 0 ∧
    s.poly1305.ctx.acc = (chunks 16 whole).foldl (polyStep (polyClamp key)) 0

/-- R395: ctx.SHA256 is open and the bytes `d` were added since INIT. -/
def State.sha256Holds (s : State) (d : Bytes) : Prop :=
  s.sha256.isOpen = true ∧ s.sha256.ctx.buf.length < 64 ∧ s.sha256.ctx.total = d.length ∧
  ∃ whole, d = whole ++ s.sha256.ctx.buf ∧ whole.length % 64 = 0 ∧
    s.sha256.ctx.h = (chunks 64 whole).foldl comp256 h256

/-- R409: ctx.SHA512 is open and the bytes `d` were added since INIT. -/
def State.sha512Holds (s : State) (d : Bytes) : Prop :=
  s.sha512.isOpen = true ∧ s.sha512.ctx.buf.length < 128 ∧ s.sha512.ctx.total = d.length ∧
  ∃ whole, d = whole ++ s.sha512.ctx.buf ∧ whole.length % 128 = 0 ∧
    s.sha512.ctx.h = (chunks 128 whole).foldl comp512 h512

/-- R420: ctx.BLAKE2S is open and the bytes `d` were added since INIT; the blocks were compressed with the counters 64,
128, ..., t and no final flag. -/
def State.blake2sHolds (s : State) (d : Bytes) : Prop :=
  s.blake2s.isOpen = true ∧ s.blake2s.ctx.buf.length ≤ 64 ∧ (d ≠ [] → 1 ≤ s.blake2s.ctx.buf.length) ∧
  ∃ whole, d = whole ++ s.blake2s.ctx.buf ∧ whole.length = s.blake2s.ctx.t ∧ s.blake2s.ctx.t % 64 = 0 ∧
    (s.blake2s.ctx.h, s.blake2s.ctx.t) =
      (chunks 64 whole).foldl (fun ht b => (comp2s ht.1 b (ht.2 + 64) false, ht.2 + 64)) (blake2sStart, 0)

/-- R442: ctx.HMAC is open for the hash `h` and the bytes `d` were added since HMAC_INIT with the key `key`. -/
def State.hmacHolds (s : State) (h : HashAlg) (key d : Bytes) : Prop :=
  s.hmac.isOpen = true ∧
  s.hmac.ctx.inner = h.init.add (xorBytes (hmacKey h key) (rep 0x36 h.blockLen) ++ d) ∧
  s.hmac.ctx.okey = xorBytes (hmacKey h key) (rep 0x5c h.blockLen)

/-! ## The invariant -/

/-- The number of words a schedule uses: 4·(NR+1), and none when NR = 0 (R53). -/
def Schedule.used (k : Schedule) : Nat := if k.nr.nr = 0 then 0 else 4 * (k.nr.nr + 1)

/-- R53: the words past the schedule are 0. -/
def Schedule.wf (k : Schedule) : Bool := (k.toList.drop k.used).all (fun w => w == 0)

/-- R395 and R409: the buffer holds what is left of the bytes added after whole blocks, and the length limit is kept. -/
def sha2Wf {w : Nat} (blk limit : Nat) (c : Sha2Ctx w) : Bool :=
  decide (c.buf.length = c.total % blk ∧ c.total < limit)

/-- R420: at most a block is held back, some byte is when any was added, and the length limit is kept. -/
def blake2sWf (c : Blake2sCtx) : Bool :=
  decide (c.buf.length ≤ 64 ∧ c.t % 64 = 0 ∧ (c.t = 0 ∨ 1 ≤ c.buf.length) ∧ c.t + c.buf.length < 2 ^ 64)

/-- R57 and R354: r is clamped, the accumulator is reduced, and less than a chunk is buffered. -/
def polyWf (c : Poly1305Ctx) : Bool :=
  decide (c.r &&& 0x0ffffffc0ffffffc0ffffffc0fffffff = c.r ∧ c.acc < polyP ∧ c.buf.length < 16)

/-- A hash context meets the rule of its kind. -/
def HashCtx.wf (c : HashCtx) : Bool :=
  match c with
  | .sha256 x => sha2Wf 64 (2 ^ 61) x
  | .sha512 x => sha2Wf 128 (2 ^ 125) x
  | .blake2s x => blake2sWf x

/-- R58: okey has the block length of the hash, and the inner context meets the rule of its kind. -/
def hmacWf (c : HmacCtx) : Bool := decide (c.okey.length = c.inner.alg.blockLen) && c.inner.wf

/-- A sink that is closed holds its closed value, and one that is open meets the rule of its kind (R54 to R58). -/
def sinkOk {α : Type} [DecidableEq α] (wf : α → Bool) (zero : α) (k : Sink α) : Bool :=
  if k.isOpen then wf k.ctx else decide (k.ctx = zero)

/-- R59 and R522: while BUSY the snapshot agrees with CMD and the live operand registers, and DONE = ERR = 0. -/
def State.phaseOk (s : State) : Bool :=
  match s.phase with
  | .idle => true
  | .busy snap _ => decide (snap.cmd = s.cmd ∧ snap.ops = s.ops) && !s.done && !s.err

/-- R37, R471, R472: ERR is set only with an error code, and OUT_LEN is 0 after a failed command. -/
def State.resultOk (s : State) : Bool :=
  (!s.err || s.errcode != .success) && (s.errcode == .success || s.outLen == 0)

/-- The machine's invariant. -/
structure State.Inv (s : State) : Prop where
  params : s.params.wf = true
  dmem : Memory.wf s.params.dmemSize s.dmem = true
  kse : s.kse.wf = true
  ksd : s.ksd.wf = true
  sha256 : sinkOk (sha2Wf 64 (2 ^ 61)) (.zero 32) s.sha256 = true
  sha512 : sinkOk (sha2Wf 128 (2 ^ 125)) (.zero 64) s.sha512 = true
  blake2s : sinkOk blake2sWf .zero s.blake2s = true
  poly1305 : sinkOk polyWf .zero s.poly1305 = true
  hmac : sinkOk hmacWf .zero s.hmac = true
  phase : s.phaseOk = true
  result : s.resultOk = true

/-! ## Launch premises and outcome classes -/

/-- `P_reset` of R531, power-on or soft reset: every element of R70 at its reset value, DMEM holding `dmem`. The
host's agenda and the model's own fields are free. -/
def State.atReset (s : State) (dmem : Memory) : Prop :=
  s = { State.powerOn s.params dmem with
        host := s.host, hostData := s.hostData, checkFailed := s.checkFailed, draws := s.draws }

/-- `P_idle` of R531. -/
def State.isIdle (s : State) : Prop := s.phase = .idle

/-- `P_clean` of R531. -/
def State.isClean (s : State) : Prop := s.done = false ∧ s.err = false ∧ s.werr = false

/-- `P_dmem(R)` of R531 for one region: it holds stated bytes. -/
def State.dmemHolds (s : State) (addr : Nat) (bytes : Bytes) : Prop :=
  Memory.readBytes s.dmem addr bytes.length = bytes

/-- `P_dmem(R)` of R531: each region, given by its address and its stated bytes, holds them. -/
def State.dmemHoldsAll (s : State) (regions : List (Nat × Bytes)) : Prop :=
  ∀ r ∈ regions, s.dmemHolds r.1 r.2

/-- `P_ks` of R531: KSE and KSD, with their round counts, hold stated values. -/
def State.schedulesAre (s : State) (kse ksd : Schedule) : Prop := s.kse = kse ∧ s.ksd = ksd

/-- `P_ks` with the stated values 0: no schedule loaded. -/
def State.noSchedules (s : State) : Prop := s.schedulesAre .unloaded .unloaded

/-- What `P_sinks` of R531 states of the five contexts: closed (`none`), or open with the stated fields. -/
structure StatedSinks where
  sha256 : Option (Sha2Ctx 32)
  sha512 : Option (Sha2Ctx 64)
  blake2s : Option Blake2sCtx
  poly1305 : Option Poly1305Ctx
  hmac : Option HmacCtx
deriving DecidableEq, Repr

/-- The sink a statement describes: open with the stated fields, or closed at its closed value. -/
def Sink.stated {α : Type} (zero : α) : Option α → Sink α
  | some c => ⟨true, c⟩
  | none => .closed zero

/-- `P_sinks` of R531: each context is closed, or holds its stated one. -/
def State.sinksAre (s : State) (k : StatedSinks) : Prop :=
  s.sha256 = .stated (.zero 32) k.sha256 ∧ s.sha512 = .stated (.zero 64) k.sha512 ∧
  s.blake2s = .stated .zero k.blake2s ∧ s.poly1305 = .stated .zero k.poly1305 ∧ s.hmac = .stated .zero k.hmac

/-- `P_sinks` with every context closed. -/
def State.sinksClosed (s : State) : Prop := s.sinksAre ⟨none, none, none, none, none⟩

/-- `P_params` of R531: the parameters have stated values. -/
def State.paramsAre (s : State) (p : Params) : Prop := s.params = p

/-- `P_params` with the default values of R5. -/
def State.defaultParams (s : State) : Prop := s.paramsAre .default

/-- The mark of a refused host access or an illegal command (R535). -/
def State.refusalMarked (s : State) : Prop := s.werr = true ∨ (s.err = true ∧ s.errcode = .illegalCommand)

end Sys2Proof.Machine
end

