-- ==== Sys2Proof/Certificates/Slice0/Obligations.lean ====
section
/-! DEFINITION. The statements for the provers. `spec/` rules are cited as R<n>; `s` is any state, also one no run
reaches; a command's operands are those of `s.snap` (10_state.md R59). -/

open Sys2Proof Sys2Proof.Machine

/-! ## Command words and the step -/

/-- R140, R142, R143, R144, R162: words written out from the opcode map, and illegal words refused. R142 gives illegal
words one code: the four names of the refusals (reservedHsel, unusedHsel, unassignedOpcode, reservedBits) are the
model's DESIGN CHOICE, log entry 15. -/
def Obligations.DecodeReadsTableWords : Prop :=
  decode 0x00000000 = .ok .nop ∧ decode 0x00000002 = .ok .ctCompare ∧ decode 0x00000013 = .ok .aesDecBlock ∧
  decode 0x00000024 = .ok .nonceInc ∧ decode 0x00000035 = .ok .xchacha20Dec ∧ decode 0x00000047 = .ok .xc20p1305Dec ∧
  decode 0x00000056 = .ok .sha512Close ∧ decode 0x0000005A = .ok .blake2sClose ∧
  decode 0x00000160 = .ok .hmacInitSha512 ∧ decode 0x00000264 = .ok .pbkdf2Blake2s ∧
  decode 0x00000360 = .error .reservedHsel ∧ decode 0x00000161 = .error .unusedHsel ∧
  decode 0x00000043 = .error .unassignedOpcode ∧ decode 0x00000400 = .error .reservedBits

/-- R140, R143, R144, R162: every command's word decodes to it, and no other word does. -/
def Obligations.DecodeAndEncodeAgree : Prop :=
  (∀ i : Instr, i.wellFormed = true ∧ decode (encode i) = .ok i) ∧
  ∀ (w : Word) (i : Instr), decode w = .ok i → w = encode i

/-- R142, R147: a CMD value is a command exactly when RSV = 0, OPC is assigned, and HSEL is 0, or is 1 or 2 on HMAC_INIT
or PBKDF2; every other value completes with IllegalCommand and changes nothing but STATUS, ERRCODE and OUT_LEN. -/
def Obligations.IllegalWordsAreRejected : Prop :=
  ∀ w : Word,
    ((∃ i, decode w = .ok i) ↔
      (w.extractLsb' 10 22 = 0 ∧ w.extractLsb' 0 8 ∈ assignedOpcodes ∧
        (w.extractLsb' 8 2 = 0 ∨
          ((w.extractLsb' 8 2 = 1 ∨ w.extractLsb' 8 2 = 2) ∧
            (w.extractLsb' 0 8 = 0x60 ∨ w.extractLsb' 0 8 = 0x64))))) ∧
    ∀ s : State, (∀ i, decode w ≠ .ok i) → ∃ t, s.complete w = .next t ∧ Fails s .illegalCommand t

/-- R140, R142, R59, R511: a BUSY core with no step left runs `exec` of the command its snapshot's CMD decodes to, or
fails with IllegalCommand when that is no command; before that, and while IDLE, a step is a turn of the host. How many
steps are left is the free value of log entry 4, and `withFetchWord` stands for an accepted CMD write (the model's
choice, log entry 7). R118, R160: a turn of the host is the first access of its agenda, or nothing: a read, whose value it
keeps; a write; a read it asserts the value of; or a read of STATUS that it repeats while BUSY, and after which it goes
on, leaving out what a failed step makes it leave out (the agenda is the model's, log entries 6, 7 and 13). -/
def Obligations.StepRunsTheDecodedCommand : Prop :=
  ∀ s : State,
    (∀ snap i, s.phase = .busy snap 0 → decode snap.cmd = .ok i → step s = exec i s) ∧
    (∀ snap, s.phase = .busy snap 0 → (∀ i, decode snap.cmd ≠ .ok i) →
      ∃ t, step s = .next t ∧ Fails s .illegalCommand t) ∧
    (∀ snap left, s.phase = .busy snap (left + 1) →
      step s = .next (State.hostTurn { s with phase := .busy snap left })) ∧
    (s.phase = .idle → step s = .next s.hostTurn) ∧
    (∀ (nbits w : Nat) (i : Instr), decode (BitVec.ofNat 32 w) = .ok i →
      step (s.withFetchWord nbits w) = exec i (s.withFetchWord nbits w)) ∧
    (s.host = [] → s.hostTurn = s) ∧
    ∀ rest : List HostOp,
      (∀ w off, s.host = .read w off :: rest →
        s.hostTurn =
          { (State.hostRead { s with host := rest } w off).2 with
            hostData := (State.hostRead { s with host := rest } w off).1 }) ∧
      (∀ w off v, s.host = .write w off v :: rest → s.hostTurn = State.hostWrite { s with host := rest } w off v) ∧
      (∀ w off v, s.host = .expect w off v :: rest →
        s.hostTurn =
          { (State.hostRead { s with host := rest } w off).2 with
            hostData := (State.hostRead { s with host := rest } w off).1
            checkFailed := s.checkFailed || (State.hostRead { s with host := rest } w off).1 != v }) ∧
      ∀ skip, s.host = .wait skip :: rest →
        s.hostTurn =
          { s with
            hostData := (s.hostRead .w32 0x00C).1
            host := if s.phase ≠ .idle then s.host else if s.err then rest.drop skip else rest }

/-- R59, R145: while BUSY a command reads its operands from the snapshot, never from the live registers: changing those
changes nothing else of the result. -/
def Obligations.CommandsReadOnlyTheSnapshot : Prop :=
  ∀ (i : Instr) (s t : State) (o : OperandRegs), s.busy = true → exec i s = .next t →
    exec i { s with ops := o } = .next { t with ops := o }

/-! ## What each command does -/

/-- R190, R191, R400, R410, R425: NOP, ZEROIZE and the hash INIT commands succeed in every state. -/
def Obligations.NopZeroizeAndHashInitsComplete : Prop :=
  ∀ s : State,
    (∃ t, exec .nop s = .next t ∧ Succeeds s 0 t) ∧
    (∃ t, exec .zeroize s = .next t ∧
      Succeeds
        { s with
          kse := ⟨.unloaded, Vector.replicate 60 0⟩, ksd := ⟨.unloaded, Vector.replicate 60 0⟩,
          sha256 := ⟨false, ⟨Hash8.zero 32, [], 0⟩⟩, sha512 := ⟨false, ⟨Hash8.zero 64, [], 0⟩⟩,
          blake2s := ⟨false, ⟨Hash8.zero 32, [], 0⟩⟩, poly1305 := ⟨false, ⟨0, 0, 0, []⟩⟩,
          hmac := ⟨false, ⟨.sha256 ⟨Hash8.zero 32, [], 0⟩, []⟩⟩ } 0 t) ∧
    (∃ t, exec .sha256Init s = .next t ∧
      Succeeds
        { s with
          sha256 := ⟨true, ⟨⟨0x6a09e667, 0xbb67ae85, 0x3c6ef372, 0xa54ff53a, 0x510e527f, 0x9b05688c, 0x1f83d9ab,
            0x5be0cd19⟩, [], 0⟩⟩ } 0 t) ∧
    (∃ t, exec .sha512Init s = .next t ∧
      Succeeds
        { s with
          sha512 := ⟨true, ⟨⟨0x6a09e667f3bcc908, 0xbb67ae8584caa73b, 0x3c6ef372fe94f82b, 0xa54ff53a5f1d36f1,
            0x510e527fade682d1, 0x9b05688c2b3e6c1f, 0x1f83d9abfb41bd6b, 0x5be0cd19137e2179⟩, [], 0⟩⟩ } 0 t) ∧
    ∃ t, exec .blake2sInit s = .next t ∧
      Succeeds
        { s with
          blake2s := ⟨true, ⟨⟨0x6a09e667 ^^^ 0x01010020, 0xbb67ae85, 0x3c6ef372, 0xa54ff53a, 0x510e527f, 0x9b05688c,
            0x1f83d9ab, 0x5be0cd19⟩, [], 0⟩⟩ } 0 t

/-- R192, R186: with both operands in DMEM, CT_COMPARE sets EQ to whether the byte strings are equal, and changes
nothing else but the completion; with one of them out of DMEM it fails with AddressError and EQ stays. -/
def Obligations.CtCompareSetsEq : Prop :=
  ∀ s : State,
    (s.allFit [s.srcRegion, s.cmpRegion] →
      ∃ t, exec .ctCompare s = .next t ∧
        Succeeds { s with eqFlag := decide (s.input s.srcRegion = s.input s.cmpRegion) } 0 t) ∧
    (¬ s.allFit [s.srcRegion, s.cmpRegion] → ∃ t, exec .ctCompare s = .next t ∧ Fails s .addressError t)

/-- R235, R236: with KEY in DMEM and a valid KEY_LEN the schedule is loaded: the words of R228 or R229, 0 past them, NR
the round count; nothing else changes. -/
def Obligations.KeyExpansionsComplete : Prop :=
  ∀ s : State, s.allFit [s.keyRegion] → s.snap.keyLen.toNat ∈ [16, 24, 32] →
    (∃ t, exec .aesKeyexpEnc s = .next t ∧ Succeeds { s with kse := t.kse } 0 t ∧
      t.kse.nr.nr = s.snap.keyLen.toNat / 4 + 6 ∧
      ∀ i, i < 60 → t.kse.toList.getD i 0 =
        if i < 4 * (s.snap.keyLen.toNat / 4 + 6 + 1) then (keyExpansion (s.input s.keyRegion)).getD i 0 else 0) ∧
    ∃ t, exec .aesKeyexpDec s = .next t ∧ Succeeds { s with ksd := t.ksd } 0 t ∧
      t.ksd.nr.nr = s.snap.keyLen.toNat / 4 + 6 ∧
      ∀ i, i < 60 → t.ksd.toList.getD i 0 =
        if i < 4 * (s.snap.keyLen.toNat / 4 + 6 + 1) then (decSchedule (s.input s.keyRegion)).getD i 0 else 0

/-- R228: the recurrence of KeyExpansion. -/
def Obligations.KeyExpansionRecurrence : Prop :=
  ∀ key : Bytes, key.length ∈ [16, 24, 32] →
    (keyExpansion key).length = 4 * (key.length / 4 + 6 + 1) ∧
    (∀ i, i < key.length / 4 → (keyExpansion key).getD i 0 = be32 key (4 * i)) ∧
    ∀ i, key.length / 4 ≤ i → i < 4 * (key.length / 4 + 6 + 1) →
      (keyExpansion key).getD i 0 = (keyExpansion key).getD (i - key.length / 4) 0 ^^^
        (if i % (key.length / 4) = 0 then
          subWord (((keyExpansion key).getD (i - 1) 0).rotateLeft 8) ^^^
            ((rcon (i / (key.length / 4))).setWidth 32 <<< 24)
        else if key.length / 4 = 8 ∧ i % (key.length / 4) = 4 then subWord ((keyExpansion key).getD (i - 1) 0)
        else (keyExpansion key).getD (i - 1) 0)

/-- R229: DecSchedule is KeyExpansion in reverse round order, with InvMixWord on every middle round's words. -/
def Obligations.DecScheduleWords : Prop :=
  ∀ key : Bytes, key.length ∈ [16, 24, 32] →
    (decSchedule key).length = 4 * (key.length / 4 + 6 + 1) ∧
    ∀ r j, r ≤ key.length / 4 + 6 → j < 4 →
      (decSchedule key).getD (4 * r + j) 0 =
        if 1 ≤ r ∧ r ≤ key.length / 4 + 6 - 1 then
          invMixWord ((keyExpansion key).getD (4 * (key.length / 4 + 6 - r) + j) 0)
        else (keyExpansion key).getD (4 * (key.length / 4 + 6 - r) + j) 0

/-- R237, R238: with SRC and DST in DMEM, 16 source bytes, room for one byte and a schedule loaded, the first
min(DST_LEN, 16) bytes of the block are written and nothing else changes. -/
def Obligations.AesBlocksComplete : Prop :=
  ∀ s : State, Memory.wf s.params.dmemSize s.dmem = true → s.allFit [s.srcRegion, s.dstRegion] →
    16 ≤ s.snap.srcLen.toNat → 0 < s.snap.dstLen.toNat →
    (s.kse.nr.nr ≠ 0 →
      ∃ t, exec .aesEncBlock s = .next t ∧
        Outputs s (aesEnc s.kse.toList s.kse.nr.nr (Memory.readBytes s.dmem s.snap.srcAddr.toNat 16)
          (min s.snap.dstLen.toNat 16)) t ∧ t.outLen.toNat = min s.snap.dstLen.toNat 16) ∧
    (s.ksd.nr.nr ≠ 0 →
      ∃ t, exec .aesDecBlock s = .next t ∧
        Outputs s (aesDec s.ksd.toList s.ksd.nr.nr (Memory.readBytes s.dmem s.snap.srcAddr.toNat 16)
          (min s.snap.dstLen.toNat 16)) t ∧ t.outLen.toNat = min s.snap.dstLen.toNat 16)

/-- R280: AES_CBC_ENC under its conditions writes CbcEnc of the inputs, a padded multiple of 16 bytes. -/
def Obligations.AesCbcEncCompletes : Prop :=
  ∀ s : State, Memory.wf s.params.dmemSize s.dmem = true →
    s.allFit [s.keyRegion, s.nonceRegion, s.srcRegion, s.dstRegion] → s.snap.aadLen = 0 →
    s.snap.keyLen.toNat ∈ [16, 24, 32] → s.snap.nonceLen.toNat = 16 → s.ksi = 0 →
    s.snap.srcLen.toNat + 16 - s.snap.srcLen.toNat % 16 ≤ s.snap.dstLen.toNat →
    ∃ t, exec .aesCbcEnc s = .next t ∧
      Outputs s (cbcEnc (s.input s.keyRegion) (s.input s.nonceRegion) (s.input s.srcRegion)) t ∧
      t.outLen.toNat = s.snap.srcLen.toNat + 16 - s.snap.srcLen.toNat % 16

/-- R281, R112: AES_CBC_DEC under its conditions writes the unpadded plaintext; bad padding fails with InvalidPadding,
and a plaintext longer than DST with BufferTooShort, nothing written. -/
def Obligations.AesCbcDecCompletes : Prop :=
  ∀ s : State, Memory.wf s.params.dmemSize s.dmem = true →
    s.allFit [s.keyRegion, s.nonceRegion, s.srcRegion, s.dstRegion] → s.snap.aadLen = 0 →
    s.snap.keyLen.toNat ∈ [16, 24, 32] → s.snap.nonceLen.toNat = 16 → s.ksi = 0 →
    s.snap.srcLen.toNat ≠ 0 → s.snap.srcLen.toNat % 16 = 0 →
    (cbcDec (s.input s.keyRegion) (s.input s.nonceRegion) (s.input s.srcRegion) = none →
      ∃ t, exec .aesCbcDec s = .next t ∧ Fails s .invalidPadding t) ∧
    ∀ p, cbcDec (s.input s.keyRegion) (s.input s.nonceRegion) (s.input s.srcRegion) = some p →
      (s.snap.dstLen.toNat < p.length → ∃ t, exec .aesCbcDec s = .next t ∧ Fails s .bufferTooShort t) ∧
      (p.length ≤ s.snap.dstLen.toNat → ∃ t, exec .aesCbcDec s = .next t ∧ Outputs s p t)

/-- R271, R272, R184: CBC decryption of a CBC encryption under the same key and IV gives the message. -/
def Obligations.CbcRoundTrip : Prop :=
  ∀ key iv m : Bytes, key.length ∈ [16, 24, 32] → iv.length = 16 → cbcDec key iv (cbcEnc key iv m) = some m

/-- R282, R283: AES_CTR_ENC and AES_CTR_DEC under their conditions both write CtrXor of the inputs. -/
def Obligations.AesCtrCompletes : Prop :=
  ∀ s : State, Memory.wf s.params.dmemSize s.dmem = true →
    s.allFit [s.keyRegion, s.nonceRegion, s.srcRegion, s.dstRegion] → s.snap.aadLen = 0 →
    s.snap.keyLen.toNat ∈ [16, 24, 32] → s.snap.nonceLen.toNat ∈ ctrNonceLengths s.params.ctrNonceLens →
    s.ksi % 16 = 0 → s.ksi / 16 < 2 ^ 32 → s.snap.srcLen.toNat ≤ s.snap.dstLen.toNat →
    ∀ i, i = Instr.aesCtrEnc ∨ i = Instr.aesCtrDec →
      ∃ t, exec i s = .next t ∧
        Outputs s (ctrXor s.params.ctrCounterBits (s.input s.keyRegion) (s.input s.nonceRegion) (s.input s.srcRegion)
          s.ksi) t ∧ t.outLen = s.snap.srcLen

/-- R273 to R275: byte j of CtrXor is the message byte with the keystream byte of its counter block; CtrXor keeps the
length, is its own inverse, and may be split at any multiple of 16. -/
def Obligations.CtrXorIsABlockKeystream : Prop :=
  ∀ (bits : CtrCounterBits) (key n m : Bytes) (o : Nat), n.length ≤ 16 →
    (ctrXor bits key n m o).length = m.length ∧
    (∀ j, j < m.length →
      (ctrXor bits key n m o).getD j 0 =
        m.getD j 0 ^^^ (aesEncKey key (ctrAdd bits (n ++ zeros (16 - n.length)) (o / 16 + j / 16)) 16).getD (j % 16) 0) ∧
    ctrXor bits key n (ctrXor bits key n m o) o = m ∧
    ∀ k, k % 16 = 0 →
      ctrXor bits key n m o = ctrXor bits key n (m.take k) o ++ ctrXor bits key n (m.drop k) (o + k)

/-- R284: NONCE_INC under its conditions adds ARG to the nonce's last four bytes, big-endian, modulo 2^32. -/
def Obligations.NonceIncCompletes : Prop :=
  ∀ s : State, Memory.wf s.params.dmemSize s.dmem = true → s.allFit [s.nonceRegion, s.dstRegion] →
    4 ≤ s.snap.nonceLen.toNat → s.snap.nonceLen.toNat ≤ 16 → s.snap.nonceLen.toNat ≤ s.snap.dstLen.toNat →
    ∃ t, exec .nonceInc s = .next t ∧
      Outputs s ((s.input s.nonceRegion).take (s.snap.nonceLen.toNat - 4) ++
        toBe32 (be32 (s.input s.nonceRegion) (s.snap.nonceLen.toNat - 4) + s.snap.arg)) t ∧
      t.outLen = s.snap.nonceLen

/-- R285: an offset of j counter blocks is the counter block moved on by j, and with a 32-bit counter that block is
what NONCE_INC makes of the zero-extended nonce. -/
def Obligations.CtrOffsetMovesTheCounter : Prop :=
  ∀ (bits : CtrCounterBits) (key n m : Bytes) (j : Nat), n.length = 12 →
    ctrXor bits key n m (16 * j) = ctrXor bits key (ctrAdd bits (ctrBlock0 n) j) m 0 ∧
    ctrAdd .bits32 (ctrBlock0 n) j = nonceInc (n ++ zeros 4) j

/-- R320, R323: CHACHA20_BLOCK and HCHACHA20 under their conditions write the block (counter ARG) and the subkey. -/
def Obligations.ChaChaBlocksComplete : Prop :=
  ∀ s : State, Memory.wf s.params.dmemSize s.dmem = true →
    s.allFit [s.keyRegion, s.nonceRegion, s.dstRegion] → s.snap.keyLen.toNat = 32 →
    (s.snap.nonceLen.toNat = 12 → 64 ≤ s.snap.dstLen.toNat →
      ∃ t, exec .chacha20Block s = .next t ∧
        Outputs s (chachaBlock (s.input s.keyRegion) s.snap.arg (s.input s.nonceRegion)) t ∧ t.outLen = 64) ∧
    (s.snap.nonceLen.toNat = 16 → 32 ≤ s.snap.dstLen.toNat →
      ∃ t, exec .hchacha20 s = .next t ∧
        Outputs s (hchacha (s.input s.keyRegion) (s.input s.nonceRegion)) t ∧ t.outLen = 32)

/-- R321, R322, R324, R325, R316, R318: the stream commands under their conditions write the stream transform of SRC
from offset KSI; XChaCha20 is ChaCha20 under the derived key and nonce. -/
def Obligations.ChaChaStreamsComplete : Prop :=
  ∀ s : State, Memory.wf s.params.dmemSize s.dmem = true →
    s.allFit [s.keyRegion, s.nonceRegion, s.srcRegion, s.dstRegion] → s.snap.aadLen = 0 →
    s.snap.keyLen.toNat = 32 → (s.ksi + max s.snap.srcLen.toNat 1 - 1) / 64 < 2 ^ 32 →
    s.snap.srcLen.toNat ≤ s.snap.dstLen.toNat →
    (s.snap.nonceLen.toNat = 12 → ∀ i, i = Instr.chacha20Enc ∨ i = Instr.chacha20Dec →
      ∃ t, exec i s = .next t ∧
        Outputs s (chachaXor (s.input s.keyRegion) (s.input s.nonceRegion) (s.input s.srcRegion) s.ksi) t ∧
        t.outLen = s.snap.srcLen) ∧
    (s.snap.nonceLen.toNat = 24 → ∀ i, i = Instr.xchacha20Enc ∨ i = Instr.xchacha20Dec →
      ∃ t, exec i s = .next t ∧
        Outputs s (chachaXor (hchacha (s.input s.keyRegion) ((s.input s.nonceRegion).take 16))
          (zeros 4 ++ (s.input s.nonceRegion).drop 16) (s.input s.srcRegion) s.ksi) t ∧
        t.outLen = s.snap.srcLen)

/-- R315: byte j of ChaXor is the message byte with keystream byte o + j; ChaXor is its own inverse and may be split
anywhere. -/
def Obligations.ChaXorIsAByteKeystream : Prop :=
  ∀ (k n m : Bytes) (o : Nat),
    (chachaXor k n m o).length = m.length ∧
    (∀ j, j < m.length →
      (chachaXor k n m o).getD j 0 =
        m.getD j 0 ^^^ (chachaBlock k (BitVec.ofNat 32 ((o + j) / 64)) n).getD ((o + j) % 64) 0) ∧
    chachaXor k n (chachaXor k n m o) o = m ∧
    ∀ c, chachaXor k n m o = chachaXor k n (m.take c) o ++ chachaXor k n (m.drop c) (o + c)

/-- R360, R361, R362: the Poly1305 sink commands under their conditions: INIT clamps r, ADD steps every whole chunk,
CLOSE steps a rest, writes the tag and closes. -/
def Obligations.Poly1305CommandsComplete : Prop :=
  ∀ s : State,
    (s.allFit [s.keyRegion] → s.snap.keyLen.toNat = 32 →
      ∃ t, exec .poly1305Init s = .next t ∧
        Succeeds
          { s with
            poly1305 := ⟨true,
              ⟨BitVec.ofNat 128 (leInt ((s.input s.keyRegion).take 16)) &&& 0x0ffffffc0ffffffc0ffffffc0fffffff,
                BitVec.ofNat 128 (leInt ((s.input s.keyRegion).drop 16)), 0, []⟩⟩ } 0 t) ∧
    (s.allFit [s.srcRegion] → s.poly1305.isOpen = true →
      ∃ t, exec .poly1305Add s = .next t ∧
        Succeeds
          { s with
            poly1305 := ⟨true,
              { s.poly1305.ctx with
                acc := (pieces 16 ((s.poly1305.ctx.buf ++ s.input s.srcRegion).length / 16)
                  (s.poly1305.ctx.buf ++ s.input s.srcRegion)).foldl (polyStep s.poly1305.ctx.r) s.poly1305.ctx.acc
                buf := (s.poly1305.ctx.buf ++ s.input s.srcRegion).drop
                  (16 * ((s.poly1305.ctx.buf ++ s.input s.srcRegion).length / 16)) }⟩ } 0 t) ∧
    (Memory.wf s.params.dmemSize s.dmem = true → s.allFit [s.dstRegion] → s.poly1305.isOpen = true →
      16 ≤ s.snap.dstLen.toNat →
      ∃ t, exec .poly1305Close s = .next t ∧
        Outputs { s with poly1305 := ⟨false, ⟨0, 0, 0, []⟩⟩ }
          (polyTag
            (if s.poly1305.ctx.buf = [] then s.poly1305.ctx.acc
              else polyStep s.poly1305.ctx.r s.poly1305.ctx.acc s.poly1305.ctx.buf)
            s.poly1305.ctx.s) t ∧ t.outLen = 16)

/-- R354: while ctx.POLY1305 is open it holds the chunks and the rest of the bytes added since INIT; CLOSE writes
Poly1305 of them; for every split the sink gives Poly1305 of the whole. -/
def Obligations.Poly1305SinkIsPoly1305 : Prop :=
  (∀ s t : State, exec .poly1305Init s = .next t → t.err = false → t.polyHolds (s.input s.keyRegion) []) ∧
  (∀ (s t : State) (key d : Bytes), s.polyHolds key d → exec .poly1305Add s = .next t → t.err = false →
    t.polyHolds key (d ++ s.input s.srcRegion)) ∧
  (∀ (s t : State) (key d : Bytes), Memory.wf s.params.dmemSize s.dmem = true → s.polyHolds key d →
    exec .poly1305Close s = .next t → t.err = false →
    Outputs { s with poly1305 := ⟨false, ⟨0, 0, 0, []⟩⟩ } (poly1305 key d) t) ∧
  ∀ (key : Bytes) (ds : List Bytes), polyFinal (ds.foldl polyAdd (polyInit key)) = poly1305 key ds.flatten

/-- R365, R367, R355 to R358, R111: an AEAD encryption under its conditions writes the ciphertext at DST, then the tag
at TAG; the XChaCha20 form uses the derived key and nonce. -/
def Obligations.AeadEncryptionsComplete : Prop :=
  ∀ s : State, Memory.wf s.params.dmemSize s.dmem = true →
    s.allFit [s.keyRegion, s.nonceRegion, s.aadRegion, s.srcRegion, s.dstRegion, s.tagRegion] →
    s.snap.keyLen.toNat = 32 → s.ksi = 0 → s.snap.srcLen.toNat ≤ s.snap.dstLen.toNat →
    ∀ k n, ∀ i,
      (i = Instr.c20p1305Enc ∧ s.snap.nonceLen.toNat = 12 ∧ k = s.input s.keyRegion ∧ n = s.input s.nonceRegion) ∨
      (i = Instr.xc20p1305Enc ∧ s.snap.nonceLen.toNat = 24 ∧
        k = hchacha (s.input s.keyRegion) ((s.input s.nonceRegion).take 16) ∧
        n = zeros 4 ++ (s.input s.nonceRegion).drop 16) →
      ∃ t, exec i s = .next t ∧
        Seals s (chachaXor k n (s.input s.srcRegion) 64)
          (poly1305 ((chachaBlock k 0 n).take 32)
            (macData (s.input s.aadRegion) (chachaXor k n (s.input s.srcRegion) 64))) t ∧
        t.outLen = s.snap.srcLen

/-- R366, R368, R357, R112: an AEAD decryption under its conditions writes the plaintext when the tag is the right one,
and fails with AuthenticationFailure, nothing written, when it is not. -/
def Obligations.AeadDecryptionsComplete : Prop :=
  ∀ s : State, Memory.wf s.params.dmemSize s.dmem = true →
    s.allFit [s.keyRegion, s.nonceRegion, s.aadRegion, s.srcRegion, s.dstRegion, s.tagRegion] →
    s.snap.keyLen.toNat = 32 → s.ksi = 0 → s.snap.srcLen.toNat ≤ s.snap.dstLen.toNat →
    ∀ k n, ∀ i,
      (i = Instr.c20p1305Dec ∧ s.snap.nonceLen.toNat = 12 ∧ k = s.input s.keyRegion ∧ n = s.input s.nonceRegion) ∨
      (i = Instr.xc20p1305Dec ∧ s.snap.nonceLen.toNat = 24 ∧
        k = hchacha (s.input s.keyRegion) ((s.input s.nonceRegion).take 16) ∧
        n = zeros 4 ++ (s.input s.nonceRegion).drop 16) →
      (s.input s.tagRegion =
          poly1305 ((chachaBlock k 0 n).take 32) (macData (s.input s.aadRegion) (s.input s.srcRegion)) →
        ∃ t, exec i s = .next t ∧ Outputs s (chachaXor k n (s.input s.srcRegion) 64) t ∧
          t.outLen = s.snap.srcLen) ∧
      (s.input s.tagRegion ≠
          poly1305 ((chachaBlock k 0 n).take 32) (macData (s.input s.aadRegion) (s.input s.srcRegion)) →
        ∃ t, exec i s = .next t ∧ Fails s .authenticationFailure t)

/-- R357: decrypting an encryption with its tag gives the message; any other tag is rejected. -/
def Obligations.AeadAcceptsOnlyItsTag : Prop :=
  ∀ k n a : Bytes,
    (∀ m, aeadDec k n a (aeadCipher k n m) (aeadTag k n a (aeadCipher k n m)) = some m) ∧
    ∀ c t, t ≠ aeadTag k n a c → aeadDec k n a c t = none

/-- R401, R411, R426: the ADD commands on an open context under their conditions: every whole block is compressed
(BLAKE2s holds a last full one back), the rest is kept, the count grows. -/
def Obligations.HashAddsComplete : Prop :=
  ∀ s : State, s.allFit [s.srcRegion] →
    (s.sha256.isOpen = true → s.sha256.ctx.total + s.snap.srcLen.toNat < 2 ^ 61 →
      ∃ t, exec .sha256Add s = .next t ∧
        Succeeds
          { s with
            sha256 := ⟨true,
              ⟨(pieces 64 ((s.sha256.ctx.buf ++ s.input s.srcRegion).length / 64)
                  (s.sha256.ctx.buf ++ s.input s.srcRegion)).foldl comp256 s.sha256.ctx.h,
                (s.sha256.ctx.buf ++ s.input s.srcRegion).drop
                  (64 * ((s.sha256.ctx.buf ++ s.input s.srcRegion).length / 64)),
                s.sha256.ctx.total + s.snap.srcLen.toNat⟩⟩ } 0 t) ∧
    (s.sha512.isOpen = true → s.sha512.ctx.total + s.snap.srcLen.toNat < 2 ^ 125 →
      ∃ t, exec .sha512Add s = .next t ∧
        Succeeds
          { s with
            sha512 := ⟨true,
              ⟨(pieces 128 ((s.sha512.ctx.buf ++ s.input s.srcRegion).length / 128)
                  (s.sha512.ctx.buf ++ s.input s.srcRegion)).foldl comp512 s.sha512.ctx.h,
                (s.sha512.ctx.buf ++ s.input s.srcRegion).drop
                  (128 * ((s.sha512.ctx.buf ++ s.input s.srcRegion).length / 128)),
                s.sha512.ctx.total + s.snap.srcLen.toNat⟩⟩ } 0 t) ∧
    (s.blake2s.isOpen = true → s.blake2s.ctx.t + s.blake2s.ctx.buf.length + s.snap.srcLen.toNat < 2 ^ 64 →
      ∃ t, exec .blake2sAdd s = .next t ∧
        Succeeds
          { s with
            blake2s := ⟨true,
              ⟨((pieces 64 (((s.blake2s.ctx.buf ++ s.input s.srcRegion).length - 1) / 64)
                  (s.blake2s.ctx.buf ++ s.input s.srcRegion)).foldl
                    (fun ht b => (comp2s ht.1 b (ht.2 + 64) false, ht.2 + 64)) (s.blake2s.ctx.h, s.blake2s.ctx.t)).1,
                (s.blake2s.ctx.buf ++ s.input s.srcRegion).drop
                  (64 * (((s.blake2s.ctx.buf ++ s.input s.srcRegion).length - 1) / 64)),
                s.blake2s.ctx.t + 64 * (((s.blake2s.ctx.buf ++ s.input s.srcRegion).length - 1) / 64)⟩⟩ } 0 t)

/-- R402, R412, R427: the CLOSE commands on an open context under their conditions write the digest and close it. -/
def Obligations.HashClosesComplete : Prop :=
  ∀ s : State, Memory.wf s.params.dmemSize s.dmem = true → s.allFit [s.dstRegion] →
    (s.sha256.isOpen = true → 32 ≤ s.snap.dstLen.toNat →
      ∃ t, exec .sha256Close s = .next t ∧
        Outputs { s with sha256 := ⟨false, ⟨Hash8.zero 32, [], 0⟩⟩ }
          (digest256 ((chunks 64 (s.sha256.ctx.buf ++ pad256 s.sha256.ctx.total)).foldl comp256 s.sha256.ctx.h)) t ∧
        t.outLen = 32) ∧
    (s.sha512.isOpen = true → 64 ≤ s.snap.dstLen.toNat →
      ∃ t, exec .sha512Close s = .next t ∧
        Outputs { s with sha512 := ⟨false, ⟨Hash8.zero 64, [], 0⟩⟩ }
          (digest512 ((chunks 128 (s.sha512.ctx.buf ++ pad512 s.sha512.ctx.total)).foldl comp512 s.sha512.ctx.h)) t ∧
        t.outLen = 64) ∧
    (s.blake2s.isOpen = true → 32 ≤ s.snap.dstLen.toNat →
      ∃ t, exec .blake2sClose s = .next t ∧
        Outputs { s with blake2s := ⟨false, ⟨Hash8.zero 32, [], 0⟩⟩ }
          ((comp2s s.blake2s.ctx.h (s.blake2s.ctx.buf ++ zeros (64 - s.blake2s.ctx.buf.length))
            (s.blake2s.ctx.t + s.blake2s.ctx.buf.length) true).toList.flatMap toLe32) t ∧
        t.outLen = 32)

/-- R395, R409: while a SHA-2 context is open it holds the blocks and the rest of the bytes added since INIT; CLOSE
writes the hash of them; for every split the sink gives the hash of the whole. -/
def Obligations.Sha2SinksHashTheWhole : Prop :=
  (∀ s t : State, exec .sha256Init s = .next t → t.sha256Holds []) ∧
  (∀ (s t : State) (d : Bytes), s.sha256Holds d → exec .sha256Add s = .next t → t.err = false →
    t.sha256Holds (d ++ s.input s.srcRegion)) ∧
  (∀ (s t : State) (d : Bytes), Memory.wf s.params.dmemSize s.dmem = true → s.sha256Holds d →
    exec .sha256Close s = .next t → t.err = false →
    Outputs { s with sha256 := ⟨false, ⟨Hash8.zero 32, [], 0⟩⟩ } (sha256 d) t) ∧
  (∀ ds : List Bytes, sha256Final (ds.foldl sha256Add sha256Init) = sha256 ds.flatten) ∧
  (∀ s t : State, exec .sha512Init s = .next t → t.sha512Holds []) ∧
  (∀ (s t : State) (d : Bytes), s.sha512Holds d → exec .sha512Add s = .next t → t.err = false →
    t.sha512Holds (d ++ s.input s.srcRegion)) ∧
  (∀ (s t : State) (d : Bytes), Memory.wf s.params.dmemSize s.dmem = true → s.sha512Holds d →
    exec .sha512Close s = .next t → t.err = false →
    Outputs { s with sha512 := ⟨false, ⟨Hash8.zero 64, [], 0⟩⟩ } (sha512 d) t) ∧
  ∀ ds : List Bytes, sha512Final (ds.foldl sha512Add sha512Init) = sha512 ds.flatten

/-- R420: while ctx.BLAKE2S is open it holds the blocks and the rest of the bytes added since INIT, some byte held back
once any was added; CLOSE writes the hash of them; for every split the sink gives the hash of the whole; an ADD past
the limit fails with InvalidArgument. -/
def Obligations.Blake2sSinkHashesTheWhole : Prop :=
  (∀ s t : State, exec .blake2sInit s = .next t → t.blake2sHolds []) ∧
  (∀ (s t : State) (d : Bytes), s.blake2sHolds d → exec .blake2sAdd s = .next t → t.err = false →
    t.blake2sHolds (d ++ s.input s.srcRegion)) ∧
  (∀ (s t : State) (d : Bytes), Memory.wf s.params.dmemSize s.dmem = true → s.blake2sHolds d →
    exec .blake2sClose s = .next t → t.err = false →
    Outputs { s with blake2s := ⟨false, ⟨Hash8.zero 32, [], 0⟩⟩ } (blake2s d) t) ∧
  (∀ ds : List Bytes, blake2sFinal (ds.foldl blake2sAdd blake2sInit) = blake2s ds.flatten) ∧
  ∀ s : State, s.allFit [s.srcRegion] → s.blake2s.isOpen = true →
    2 ^ 64 ≤ s.blake2s.ctx.t + s.blake2s.ctx.buf.length + s.snap.srcLen.toNat →
    ∃ t, exec .blake2sAdd s = .next t ∧ Fails s .invalidArgument t

/-- R445, R446, R447: the HMAC commands under their conditions: INIT with each hash opens the context with ikey
absorbed, ADD absorbs SRC, CLOSE writes the MAC and closes. -/
def Obligations.HmacCommandsComplete : Prop :=
  ∀ s : State,
    (s.allFit [s.keyRegion] → ∀ i h,
      (i = Instr.hmacInitSha256 ∧ h = HashAlg.sha256) ∨ (i = Instr.hmacInitSha512 ∧ h = HashAlg.sha512) ∨
        (i = Instr.hmacInitBlake2s ∧ h = HashAlg.blake2s) →
      ∃ t, exec i s = .next t ∧
        Succeeds
          { s with
            hmac := ⟨true, ⟨h.init.add (xorBytes (hmacKey h (s.input s.keyRegion)) (rep 0x36 h.blockLen)),
              xorBytes (hmacKey h (s.input s.keyRegion)) (rep 0x5c h.blockLen)⟩⟩ } 0 t) ∧
    (s.allFit [s.srcRegion] → s.hmac.isOpen = true → s.hmac.ctx.inner.overflows s.snap.srcLen.toNat = false →
      ∃ t, exec .hmacAdd s = .next t ∧
        Succeeds { s with hmac := ⟨true, ⟨s.hmac.ctx.inner.add (s.input s.srcRegion), s.hmac.ctx.okey⟩⟩ } 0 t) ∧
    (Memory.wf s.params.dmemSize s.dmem = true → s.allFit [s.dstRegion] → s.hmac.isOpen = true →
      s.hmac.ctx.inner.alg.digestLen ≤ s.snap.dstLen.toNat →
      ∃ t, exec .hmacClose s = .next t ∧
        Outputs { s with hmac := ⟨false, ⟨.sha256 ⟨Hash8.zero 32, [], 0⟩, []⟩⟩ }
          (s.hmac.ctx.inner.alg.hash (s.hmac.ctx.okey ++ s.hmac.ctx.inner.final)) t ∧
        t.outLen.toNat = s.hmac.ctx.inner.alg.digestLen)

/-- R442, R440, R441: while ctx.HMAC is open its inner context is that of ikey and the bytes added since INIT and okey is
that of the key; CLOSE writes HMAC of them; for every split the sink gives HMAC of the whole. -/
def Obligations.HmacSinkIsHmac : Prop :=
  (∀ (i : Instr) (h : HashAlg) (s t : State),
    (i = Instr.hmacInitSha256 ∧ h = HashAlg.sha256) ∨ (i = Instr.hmacInitSha512 ∧ h = HashAlg.sha512) ∨
      (i = Instr.hmacInitBlake2s ∧ h = HashAlg.blake2s) →
    exec i s = .next t → t.err = false → t.hmacHolds h (s.input s.keyRegion) []) ∧
  (∀ (h : HashAlg) (s t : State) (key d : Bytes), s.hmacHolds h key d → exec .hmacAdd s = .next t → t.err = false →
    t.hmacHolds h key (d ++ s.input s.srcRegion)) ∧
  (∀ (h : HashAlg) (s t : State) (key d : Bytes), Memory.wf s.params.dmemSize s.dmem = true → s.hmacHolds h key d →
    exec .hmacClose s = .next t → t.err = false →
    Outputs { s with hmac := ⟨false, ⟨.sha256 ⟨Hash8.zero 32, [], 0⟩, []⟩⟩ }
      (h.hash (xorBytes (hmacKey h key) (rep 0x5c h.blockLen) ++
        h.hash (xorBytes (hmacKey h key) (rep 0x36 h.blockLen) ++ d))) t) ∧
  ∀ (h : HashAlg) (key : Bytes) (ds : List Bytes),
    hmacFinal { hmacInit h key with inner := ds.foldl HashCtx.add (hmacInit h key).inner } =
      h.hash (xorBytes (hmacKey h key) (rep 0x5c h.blockLen) ++
        h.hash (xorBytes (hmacKey h key) (rep 0x36 h.blockLen) ++ ds.flatten))

/-- R450: PBKDF2 with each hash under its conditions writes ceil(ARG/8) bytes of PBKDF2 of password, salt and ITER. -/
def Obligations.Pbkdf2Completes : Prop :=
  ∀ s : State, Memory.wf s.params.dmemSize s.dmem = true →
    s.allFit [s.keyRegion, s.nonceRegion, s.dstRegion] → s.snap.iter ≠ 0 →
    (s.snap.arg.toNat + 7) / 8 ≤ s.snap.dstLen.toNat →
    ∀ i h, (i = Instr.pbkdf2Sha256 ∧ h = HashAlg.sha256) ∨ (i = Instr.pbkdf2Sha512 ∧ h = HashAlg.sha512) ∨
        (i = Instr.pbkdf2Blake2s ∧ h = HashAlg.blake2s) →
      ∃ t, exec i s = .next t ∧
        Outputs s (pbkdf2 h (s.input s.keyRegion) (s.input s.nonceRegion) s.snap.iter.toNat s.snap.arg.toNat) t ∧
        t.outLen.toNat = (s.snap.arg.toNat + 7) / 8

/-- R443: PBKDF2 gives ceil(n/8) bytes, byte j from block j / L + 1; a block is the exclusive or of its U values. -/
def Obligations.Pbkdf2IsXorOfIterations : Prop :=
  ∀ (h : HashAlg) (p salt : Bytes) (c bits : Nat), 1 ≤ c →
    (pbkdf2 h p salt c bits).length = (bits + 7) / 8 ∧
    (∀ j, j < (bits + 7) / 8 →
      (pbkdf2 h p salt c bits).getD j 0 = (pbkdf2Block h p salt c (j / h.digestLen + 1)).getD (j % h.digestLen) 0) ∧
    ∀ i, pbkdf2Block h p salt c i =
      (List.range' 2 (c - 1)).foldl (fun t j => xorBytes t (pbkdf2U h p salt i j)) (pbkdf2U h p salt i 1)

/-- R233: under every valid key AesDec with DecSchedule undoes AesEnc with KeyExpansion, AesEnc is a permutation of the
16-byte blocks, and a shorter output is a prefix. -/
def Obligations.AesDecUndoesAesEnc : Prop :=
  (∀ key b : Bytes, key.length ∈ [16, 24, 32] → b.length = 16 →
    aesDec (decSchedule key) (key.length / 4 + 6) (aesEnc (keyExpansion key) (key.length / 4 + 6) b 16) 16 = b ∧
    ∃ c, c.length = 16 ∧ aesEnc (keyExpansion key) (key.length / 4 + 6) c 16 = b) ∧
  ∀ (k : List Word) (nr : Nat) (b : Bytes) (n : Nat), n < 16 →
    aesEnc k nr b n = (aesEnc k nr b 16).take n ∧ aesDec k nr b n = (aesDec k nr b 16).take n

/-- R183, R184: padding makes a positive multiple of 16 bytes and stripping undoes it; stripping succeeds exactly on
strings that end in p bytes of value p, for a p from 1 to 16. -/
def Obligations.PaddingIsStripped : Prop :=
  (∀ m : Bytes, (pad7 m).length % 16 = 0 ∧ 0 < (pad7 m).length ∧ unpad7 (pad7 m) = some m ∧
    pad7 m = m ++ List.replicate (16 - m.length % 16) (BitVec.ofNat 8 (16 - m.length % 16))) ∧
  ∀ d m : Bytes, d ≠ [] →
    (unpad7 d = some m ↔ ∃ p, 1 ≤ p ∧ p ≤ 16 ∧ d = m ++ List.replicate p (BitVec.ofNat 8 p))

/-- R221 to R223: the S-box is the affine map of the inverse, the inverse S-box undoes it, and each round constant is
xtime of the one before. -/
def Obligations.AesTablesMeetTheirFormulas : Prop :=
  (∀ x : Byte, invSbox (sbox x) = x ∧ sbox (invSbox x) = x) ∧
  sbox 0 = sboxAffine 0 ∧ (∀ x : Byte, x ≠ 0 → ∃ y, gmul x y = 1 ∧ sbox x = sboxAffine y) ∧
  rcon 1 = 1 ∧ ∀ j, 1 ≤ j → j < 10 → rcon (j + 1) = xtime (rcon j)

/-- R182: the GF(2^8) product is commutative and associative, distributes over exclusive or, has identity 1 and
absorbing element 0, and has the worked values. -/
def Obligations.GfProductLaws : Prop :=
  (∀ a b c : Byte, gmul a b = gmul b a ∧ gmul (gmul a b) c = gmul a (gmul b c) ∧
    gmul a (b ^^^ c) = gmul a b ^^^ gmul a c ∧ gmul a 1 = a ∧ gmul a 0 = 0) ∧
  gmul 0x57 0x83 = 0xC1 ∧ gmul 0x57 0x13 = 0xFE ∧ xtime 0x57 = 0xAE ∧ xtime 0xAE = 0x47

/-! ## Which error -/

/-- R474, R105: a command fails with the first error of steps 2 to 9 that applies, and with nothing else changed; when
none applies and nothing can fail during the work it succeeds. -/
def Obligations.FirstErrorIsReported : Prop :=
  ∀ (i : Instr) (s : State),
    (∀ e, s.firstApplicable i = some e → ∃ t, exec i s = .next t ∧ Fails s e t) ∧
    (s.firstApplicable i = none → failsInWork i = false →
      ∃ t, exec i s = .next t ∧ t.errcode = .success ∧ t.err = false)

/-- R475: a command completes with success or one of the errors listed for it. -/
def Obligations.OnlyListedErrors : Prop :=
  ∀ (i : Instr) (s t : State), exec i s = .next t → t.errcode = .success ∨ t.errcode ∈ possibleErrors i

/-- R472, R112: a completion with ERR = 1, of a legal command or an illegal value, changes no DMEM byte, schedule,
context or EQ: only ERRCODE, OUT_LEN, ERR, DONE and the phase. -/
def Obligations.FailedCommandsChangeNothing : Prop :=
  ∀ (w : Word) (s t : State), s.complete w = .next t → t.err = true → Fails s t.errcode t ∧ t.errcode ≠ .success

/-- R513, R471, R472: every step answers a next state; a command always completes, IDLE with DONE = 1 and ERR exactly
when the code is not 0. -/
def Obligations.EveryStepAnswers : Prop :=
  (∀ s : State, ∃ t, step s = .next t) ∧
  ∀ (i : Instr) (s : State), ∃ t, exec i s = .next t ∧ t.phase = .idle ∧ t.done = true ∧
    (t.err = true ↔ t.errcode ≠ .success)

/-- R512, R550: a BUSY core is IDLE after finitely many steps, whatever the host does meanwhile (how many is the
free value of log entry 4). -/
def Obligations.BusyEnds : Prop :=
  ∀ (s : State) (snap : Snapshot) (left : Nat), s.phase = .busy snap left →
    ∃ k t, k ≤ left + 1 ∧ core.run k s = .next t ∧ t.phase = .idle

/-! ## What a step leaves alone -/

/-- R60, R61: no command writes an operand register, CMD, CTRL, WERR, a parameter or a field of the host's. -/
def Obligations.CommandsLeaveTheHostsRegisters : Prop :=
  ∀ (i : Instr) (s t : State), exec i s = .next t →
    t.params = s.params ∧ t.irqEn = s.irqEn ∧ t.werr = s.werr ∧ t.cmd = s.cmd ∧ t.ops = s.ops ∧
    t.host = s.host ∧ t.hostData = s.hostData ∧ t.checkFailed = s.checkFailed ∧ t.draws = s.draws

/-- R53, R61, R191: EQ, each schedule and each sink context is changed by its own commands only. -/
def Obligations.InternalStateHasItsWriters : Prop :=
  ∀ (i : Instr) (s t : State), exec i s = .next t →
    (t.eqFlag ≠ s.eqFlag → i = .ctCompare) ∧
    (t.kse ≠ s.kse → i ∈ [.aesKeyexpEnc, .zeroize]) ∧
    (t.ksd ≠ s.ksd → i ∈ [.aesKeyexpDec, .zeroize]) ∧
    (t.sha256 ≠ s.sha256 → i ∈ [.sha256Init, .sha256Add, .sha256Close, .zeroize]) ∧
    (t.sha512 ≠ s.sha512 → i ∈ [.sha512Init, .sha512Add, .sha512Close, .zeroize]) ∧
    (t.blake2s ≠ s.blake2s → i ∈ [.blake2sInit, .blake2sAdd, .blake2sClose, .zeroize]) ∧
    (t.poly1305 ≠ s.poly1305 → i ∈ [.poly1305Init, .poly1305Add, .poly1305Close, .zeroize]) ∧
    (t.hmac ≠ s.hmac →
      i ∈ [.hmacInitSha256, .hmacInitSha512, .hmacInitBlake2s, .hmacAdd, .hmacClose, .zeroize])

/-- R111, R37: a command writes only the first OUT_LEN bytes at DST_ADDR, never more than DST_LEN, and the 16 tag bytes
of an AEAD encryption; every other DMEM byte keeps its value. -/
def Obligations.CommandsWriteOnlyTheirOutputs : Prop :=
  ∀ (i : Instr) (s t : State), Memory.wf s.params.dmemSize s.dmem = true → exec i s = .next t →
    t.outLen.toNat ≤ s.snap.dstLen.toNat ∧
    ∀ a, ¬ (s.snap.dstAddr.toNat ≤ a ∧ a < s.snap.dstAddr.toNat + t.outLen.toNat) →
      ¬ (writesTag i = true ∧ t.err = false ∧ s.snap.tagAddr.toNat ≤ a ∧ a < s.snap.tagAddr.toNat + 16) →
      t.dmem.read a = s.dmem.read a

/-- R101, R120, R521: a turn of the host changes no schedule, context, EQ, ERRCODE or OUT_LEN unless it is a soft
reset, a 32-bit write to CTRL with bit 0 set, which leaves each at its reset value and keeps DMEM; while BUSY it changes no DMEM byte and no operand register
except by that reset. The host's own fields stay (the model's choice, log entry 6). -/
def Obligations.HostTurnsLeaveInternalState : Prop :=
  ∀ s : State,
    (s.hostTurn.kse = s.kse ∧ s.hostTurn.ksd = s.ksd ∧ s.hostTurn.sha256 = s.sha256 ∧
      s.hostTurn.sha512 = s.sha512 ∧ s.hostTurn.blake2s = s.blake2s ∧ s.hostTurn.poly1305 = s.poly1305 ∧
      s.hostTurn.hmac = s.hmac ∧ s.hostTurn.eqFlag = s.eqFlag ∧ s.hostTurn.errcode = s.errcode ∧
      s.hostTurn.outLen = s.outLen ∧ s.hostTurn.params = s.params ∧
      (s.busy = true → s.hostTurn.dmem = s.dmem ∧ s.hostTurn.ops = s.ops ∧ s.hostTurn.cmd = s.cmd ∧
        s.hostTurn.phase = s.phase)) ∨
    (∃ v rest, s.host = .write .w32 0x008 v :: rest ∧ v.getLsbD 0 = true) ∧
      s.hostTurn.atReset s.dmem ∧ s.hostTurn.params = s.params

/-! ## The invariant -/

/-- R53 to R59, R37, R395, R420, R354, R100: every step keeps the invariant: DMEM canonical and inside its size, words
past a schedule 0, closed contexts at their closed value and open ones within the bounds of their kind, the snapshot
equal to the live registers while BUSY, OUT_LEN 0 after a failure. The canonical form is the model's (log entry 1). -/
def Obligations.StepKeepsTheInvariant : Prop :=
  ∀ s t : State, s.Inv → step s = .next t → t.Inv

/-- R70, R5: the invariant holds after a power-on reset, for any parameters in range and any DMEM contents.
`State.reset` itself has the model's choices of log entries 1 and 3. -/
def Obligations.ResetMeetsTheInvariant : Prop :=
  State.reset.Inv ∧
  ∀ (p : Params) (m : Memory), p.wf = true → Memory.wf p.dmemSize m = true → (State.powerOn p m).Inv

/-! ## Reset and the host port -/

/-- R70: what a power-on reset leaves, as the registers read and in the internal state. -/
def Obligations.PowerOnValues : Prop :=
  ∀ (p : Params) (m : Memory),
    (State.powerOn p m).readReg .id = 0x44435259 ∧ (State.powerOn p m).readReg .version = 0x00070000 ∧
    (State.powerOn p m).readReg .ctrl = 0 ∧ (State.powerOn p m).readReg .status = 0 ∧
    (State.powerOn p m).readReg .errcode = 0 ∧ (State.powerOn p m).readReg .cmd = 0 ∧
    (State.powerOn p m).readReg .outLen = 0 ∧ (State.powerOn p m).readReg .ksRounds = 0 ∧
    (∀ r, (State.powerOn p m).readReg (.op r) = 0) ∧
    (∀ i, i < 60 → (State.powerOn p m).readReg (.kse i) = 0 ∧ (State.powerOn p m).readReg (.ksd i) = 0) ∧
    (State.powerOn p m).sha256 = ⟨false, ⟨Hash8.zero 32, [], 0⟩⟩ ∧
    (State.powerOn p m).sha512 = ⟨false, ⟨Hash8.zero 64, [], 0⟩⟩ ∧
    (State.powerOn p m).blake2s = ⟨false, ⟨Hash8.zero 32, [], 0⟩⟩ ∧
    (State.powerOn p m).poly1305 = ⟨false, ⟨0, 0, 0, []⟩⟩ ∧
    (State.powerOn p m).hmac = ⟨false, ⟨.sha256 ⟨Hash8.zero 32, [], 0⟩, []⟩⟩ ∧
    (State.powerOn p m).phase = .idle ∧ (State.powerOn p m).irq = false ∧ (State.powerOn p m).dmem = m

/-- R521, R524, R32, R71: a 32-bit write to CTRL with bit 0 set puts every element at its power-on value but DMEM, BUSY
or not, and ignores bit 1; with bit 0 clear it sets IRQ_EN to bit 1 and a running command goes on. The host's own fields
stay (the model's choice, log entry 6). -/
def Obligations.CtrlWriteResetsOrSetsIrqEn : Prop :=
  ∀ (s : State) (v : Word),
    (v.getLsbD 0 = true →
      s.hostWrite .w32 0x008 v =
        { State.powerOn s.params s.dmem with
          host := s.host, hostData := s.hostData, checkFailed := s.checkFailed, draws := s.draws }) ∧
    (v.getLsbD 0 = false → s.hostWrite .w32 0x008 v = { s with irqEn := v.getLsbD 1 })

/-- R33: what each of the 32 bits of STATUS reads as. -/
def Obligations.StatusReadsItsBits : Prop :=
  ∀ s : State,
    (s.hostRead .w32 0x00C).2 = s ∧
    ((s.hostRead .w32 0x00C).1.getLsbD 0 = true ↔ s.phase ≠ .idle) ∧
    (s.hostRead .w32 0x00C).1.getLsbD 1 = s.done ∧ (s.hostRead .w32 0x00C).1.getLsbD 2 = s.err ∧
    (s.hostRead .w32 0x00C).1.getLsbD 3 = s.eqFlag ∧
    ((s.hostRead .w32 0x00C).1.getLsbD 4 = true ↔ s.kse.nr.nr ≠ 0) ∧
    ((s.hostRead .w32 0x00C).1.getLsbD 5 = true ↔ s.ksd.nr.nr ≠ 0) ∧
    (s.hostRead .w32 0x00C).1.getLsbD 6 = s.werr ∧ (s.hostRead .w32 0x00C).1.getLsbD 7 = false ∧
    (s.hostRead .w32 0x00C).1.getLsbD 8 = s.sha256.isOpen ∧ (s.hostRead .w32 0x00C).1.getLsbD 9 = s.sha512.isOpen ∧
    (s.hostRead .w32 0x00C).1.getLsbD 10 = s.blake2s.isOpen ∧
    (s.hostRead .w32 0x00C).1.getLsbD 11 = s.poly1305.isOpen ∧ (s.hostRead .w32 0x00C).1.getLsbD 12 = s.hmac.isOpen ∧
    ∀ i, 13 ≤ i → (s.hostRead .w32 0x00C).1.getLsbD i = false

/-- R34: a write to STATUS clears DONE, ERR and WERR by a 1 in bits 1, 2 and 6 and does nothing else, BUSY or not. -/
def Obligations.StatusWriteClearsByOnes : Prop :=
  ∀ (s : State) (v : Word),
    s.hostWrite .w32 0x00C v =
      { s with
        done := if v.getLsbD 1 then false else s.done
        err := if v.getLsbD 2 then false else s.err
        werr := if v.getLsbD 6 then false else s.werr }

/-- R36, R59, R39 to R44, R47 to R49: a write to CMD while IDLE is accepted: CMD takes the value, DONE and ERR clear, the
core is BUSY with the snapshot; while BUSY it is dropped and sets WERR. A read returns the last accepted value. How many
steps the command takes is the free value of log entry 4. While IDLE a write to an operand register puts the value into
that register and changes nothing else: a read of it then returns the value, and the other operand registers read as
before. -/
def Obligations.CmdWriteStartsOrIsDropped : Prop :=
  ∀ (s : State) (v : Word),
    (s.phase = .idle → ∃ left,
      s.hostWrite .w32 0x014 v =
        { s with
          cmd := v, done := false, err := false, phase := .busy ⟨v, s.ops⟩ left, draws := s.draws + 1 }) ∧
    (s.phase ≠ .idle → s.hostWrite .w32 0x014 v = { s with werr := true }) ∧
    s.hostRead .w32 0x014 = (s.cmd, s) ∧
    (s.phase = .idle →
      s.hostWrite .w32 0x020 v = { s with ops := { s.ops with keyAddr := v } } ∧
      s.hostWrite .w32 0x024 v = { s with ops := { s.ops with keyLen := v } } ∧
      s.hostWrite .w32 0x028 v = { s with ops := { s.ops with nonceAddr := v } } ∧
      s.hostWrite .w32 0x02C v = { s with ops := { s.ops with nonceLen := v } } ∧
      s.hostWrite .w32 0x030 v = { s with ops := { s.ops with aadAddr := v } } ∧
      s.hostWrite .w32 0x034 v = { s with ops := { s.ops with aadLen := v } } ∧
      s.hostWrite .w32 0x038 v = { s with ops := { s.ops with srcAddr := v } } ∧
      s.hostWrite .w32 0x03C v = { s with ops := { s.ops with srcLen := v } } ∧
      s.hostWrite .w32 0x040 v = { s with ops := { s.ops with dstAddr := v } } ∧
      s.hostWrite .w32 0x044 v = { s with ops := { s.ops with dstLen := v } } ∧
      s.hostWrite .w32 0x048 v = { s with ops := { s.ops with tagAddr := v } } ∧
      s.hostWrite .w32 0x04C v = { s with ops := { s.ops with ksiLo := v } } ∧
      s.hostWrite .w32 0x050 v = { s with ops := { s.ops with ksiHi := v } } ∧
      s.hostWrite .w32 0x054 v = { s with ops := { s.ops with arg := v } } ∧
      s.hostWrite .w32 0x058 v = { s with ops := { s.ops with iter := v } }) ∧
    ∀ off o : Nat, s.phase = .idle → off % 4 = 0 → 0x020 ≤ off → off ≤ 0x058 → o % 4 = 0 → 0x020 ≤ o → o ≤ 0x058 →
      ((s.hostWrite .w32 off v).hostRead .w32 o).1 = if o = off then v else (s.hostRead .w32 o).1

/-- R522, R523, R30 to R49: in every state a read of a register returns its current value and changes nothing (STATUS,
bit by bit: StatusReadsItsBits); while BUSY, from a state that meets R59's part of the invariant, STATUS shows BUSY = 1
and DONE = ERR = 0. While BUSY a write to any register but STATUS and CTRL, and to DMEM, is dropped and sets WERR
(for the read-only registers by decision D46, log entry 11); a write to a reserved offset is ignored and leaves WERR, and
a read there gives 0; a DMEM read of any width returns a fresh free value, and sets WERR only
where R104 refuses its form (the model's reading, log entry 8). -/
def Obligations.AccessesWhileBusy : Prop :=
  ∀ s : State,
    s.hostRead .w32 0x000 = (0x44435259, s) ∧ s.hostRead .w32 0x004 = (0x00070000, s) ∧
    s.hostRead .w32 0x008 = (if s.irqEn then 2 else 0, s) ∧ s.hostRead .w32 0x00C = (s.statusWord, s) ∧
    s.hostRead .w32 0x010 = (s.errcode.code.setWidth 32, s) ∧ s.hostRead .w32 0x014 = (s.cmd, s) ∧
    s.hostRead .w32 0x018 = (s.outLen, s) ∧
    s.hostRead .w32 0x01C = (BitVec.ofNat 32 (s.kse.nr.nr + 2 ^ 8 * s.ksd.nr.nr), s) ∧
    s.hostRead .w32 0x020 = (s.ops.keyAddr, s) ∧ s.hostRead .w32 0x024 = (s.ops.keyLen, s) ∧
    s.hostRead .w32 0x028 = (s.ops.nonceAddr, s) ∧ s.hostRead .w32 0x02C = (s.ops.nonceLen, s) ∧
    s.hostRead .w32 0x030 = (s.ops.aadAddr, s) ∧ s.hostRead .w32 0x034 = (s.ops.aadLen, s) ∧
    s.hostRead .w32 0x038 = (s.ops.srcAddr, s) ∧ s.hostRead .w32 0x03C = (s.ops.srcLen, s) ∧
    s.hostRead .w32 0x040 = (s.ops.dstAddr, s) ∧ s.hostRead .w32 0x044 = (s.ops.dstLen, s) ∧
    s.hostRead .w32 0x048 = (s.ops.tagAddr, s) ∧ s.hostRead .w32 0x04C = (s.ops.ksiLo, s) ∧
    s.hostRead .w32 0x050 = (s.ops.ksiHi, s) ∧ s.hostRead .w32 0x054 = (s.ops.arg, s) ∧
    s.hostRead .w32 0x058 = (s.ops.iter, s) ∧
    (∀ i, i < 60 →
      s.hostRead .w32 (0x100 + 4 * i) = (s.kse.toList.getD i 0, s) ∧
      s.hostRead .w32 (0x200 + 4 * i) = (s.ksd.toList.getD i 0, s)) ∧
    (s.busy = true → s.phaseOk = true →
      s.statusWord.getLsbD 0 = true ∧ s.statusWord.getLsbD 1 = false ∧ s.statusWord.getLsbD 2 = false) ∧
    (s.busy = true → ∀ (off : Nat) (v : Word), off % 4 = 0 →
      ((0x020 ≤ off ∧ off ≤ 0x058) ∨ off ∈ [0x000, 0x004, 0x010, 0x014, 0x018, 0x01C] ∨
          (0x100 ≤ off ∧ off < 0x1F0) ∨ (0x200 ≤ off ∧ off < 0x2F0) →
        s.hostWrite .w32 off v = { s with werr := true }) ∧
      ((0x05C ≤ off ∧ off ≤ 0x0FF) ∨ (0x1F0 ≤ off ∧ off ≤ 0x1FF) ∨ (0x2F0 ≤ off ∧ off ≤ 0xFFFF) →
        s.hostWrite .w32 off v = s ∧ s.hostRead .w32 off = (0, s))) ∧
    (s.busy = true → ∀ (w : Width) (a : Nat) (v : Word), a < s.params.dmemSize →
      s.hostWrite w (0x10000 + a) v = { s with werr := true } ∧
      s.hostRead w (0x10000 + a) =
        (w.truncate (Config.busyDmemRead s.draws),
          if a % w.bytes = 0 ∧ a + w.bytes ≤ s.params.dmemSize then { s with draws := s.draws + 1 }
          else { s with werr := true, draws := s.draws + 1 }))

/-- R103: while IDLE an aligned DMEM access of 1, 2 or 4 bytes inside DMEM is little-endian: a read returns byte a + j in
bits 8j up, a write puts bits 8j up at a + j and leaves every other byte, and a read after it returns the value. That a
narrow read has 0 above its bytes and a narrow write takes the value's low bits is the model's reading of R103 (DEDUCED,
log entry 18). -/
def Obligations.DmemWindowIsLittleEndian : Prop :=
  ∀ (s : State) (w : Width) (a : Nat) (v : Word), s.phase = .idle →
    Memory.wf s.params.dmemSize s.dmem = true → a % w.bytes = 0 → a + w.bytes ≤ s.params.dmemSize →
    (s.hostRead w (0x10000 + a)).2 = s ∧
    (∀ j, j < w.bytes → (s.hostRead w (0x10000 + a)).1.extractLsb' (8 * j) 8 = s.dmem.read (a + j)) ∧
    (∀ j, w.bytes ≤ j → (s.hostRead w (0x10000 + a)).1.extractLsb' (8 * j) 8 = 0) ∧
    ∃ m, s.hostWrite w (0x10000 + a) v = { s with dmem := m } ∧
      (∀ c, m.read c = if a ≤ c ∧ c < a + w.bytes then v.extractLsb' (8 * (c - a)) 8 else s.dmem.read c) ∧
      (State.hostRead { s with dmem := m } w (0x10000 + a)).1.toNat = v.toNat % 2 ^ (8 * w.bytes)

/-- R50, R51, R52, R104: a register access that is not 32-bit and aligned, and (while IDLE) a DMEM access that is not
aligned or passes the end, is ignored, reads 0 and sets WERR; a reserved offset reads 0 and ignores writes (past
DMEM at every width: the model's choice, log entry 9; width and alignment are tested first: log entry 10); a write to a
read-only register is ignored, and sets WERR when the core is BUSY only (decision D46, log entry 11). -/
def Obligations.IllFormedAndReservedAccesses : Prop :=
  ∀ (s : State) (off : Nat) (v : Word),
    (∀ w, off < 0x10000 → ¬ (w = Width.w32 ∧ off % 4 = 0) →
      s.hostRead w off = (0, { s with werr := true }) ∧ s.hostWrite w off v = { s with werr := true }) ∧
    (off % 4 = 0 →
      (0x05C ≤ off ∧ off ≤ 0x0FF) ∨ (0x1F0 ≤ off ∧ off ≤ 0x1FF) ∨ (0x2F0 ≤ off ∧ off ≤ 0xFFFF) →
      s.hostRead .w32 off = (0, s) ∧ s.hostWrite .w32 off v = s) ∧
    (∀ w, 0x10000 + s.params.dmemSize ≤ off → s.hostRead w off = (0, s) ∧ s.hostWrite w off v = s) ∧
    (∀ w, s.phase = .idle → 0x10000 ≤ off → off < 0x10000 + s.params.dmemSize →
      off % w.bytes ≠ 0 ∨ 0x10000 + s.params.dmemSize < off + w.bytes →
      s.hostRead w off = (0, { s with werr := true }) ∧ s.hostWrite w off v = { s with werr := true }) ∧
    (off ∈ [0x000, 0x004, 0x010, 0x018, 0x01C] ∨
        (off % 4 = 0 ∧ ((0x100 ≤ off ∧ off < 0x1F0) ∨ (0x200 ≤ off ∧ off < 0x2F0))) →
      (s.phase = .idle → s.hostWrite .w32 off v = s) ∧
      (s.phase ≠ .idle → s.hostWrite .w32 off v = { s with werr := true }))

/-- R107: a command that reads with BE32 what the host wrote with one 32-bit access sees the bytes reversed; with LE32
it sees the value. -/
def Obligations.HostWordSeenByteReversed : Prop :=
  ∀ (s : State) (a : Nat) (v : Word), s.phase = .idle → Memory.wf s.params.dmemSize s.dmem = true →
    a % 4 = 0 → a + 4 ≤ s.params.dmemSize →
    be32 (Memory.readBytes (s.hostWrite .w32 (0x10000 + a) v).dmem a 4) 0 =
      v.extractLsb' 0 8 ++ v.extractLsb' 8 8 ++ v.extractLsb' 16 8 ++ v.extractLsb' 24 8 ∧
    le32 (Memory.readBytes (s.hostWrite .w32 (0x10000 + a) v).dmem a 4) 0 = v

/-- R480, R483, R481: irq is IRQ_EN and (DONE or ERR): it follows IRQ_EN at once, a completion asserts it when enabled,
an accepted CMD write and a STATUS write of 6 clear it, and a refused access leaves it. -/
def Obligations.IrqIsDerived : Prop :=
  ∀ s : State,
    s.irq = (s.irqEn && (s.done || s.err)) ∧
    (∀ i t, exec i s = .next t → t.irq = s.irqEn) ∧
    (∀ v, s.phase = .idle → (s.hostWrite .w32 0x014 v).irq = false) ∧
    (s.hostWrite .w32 0x00C 0x00000006).irq = false ∧
    (s.hostWrite .w32 0x008 0x00000002).irq = (s.done || s.err) ∧
    ({ s with werr := true } : State).irq = s.irq

/-- R160 to R165: the accesses each script statement denotes, for all its operands, a script's being
those of its statements in order; `set` and `check` name a register by its offset in the register map. A step of a
pseudo-command is waited for and, when it fails, the rest is left out (how many accesses those are: log entry 13; the
host as part of the state is the model's choice, log entry 7). -/
def Obligations.ScriptsAreTheirAccesses : Prop :=
  (scriptOps [] = [] ∧ ∀ st rest, scriptOps (st :: rest) = st.ops ++ scriptOps rest) ∧
  (∀ xs ys : List Stmt, scriptOps (xs ++ ys) = scriptOps xs ++ scriptOps ys) ∧
  (∀ (s : State) (script : List Stmt), s.withScript script = { s with host := s.host ++ scriptOps script }) ∧
  (∀ (r : Reg) (v : Word),
    Stmt.ops (.set r v) = [.write .w32 r.offset v] ∧ Stmt.ops (.check r v) = [.expect .w32 r.offset v]) ∧
  [Reg.id, .version, .ctrl, .status, .errcode, .cmd, .outLen, .ksRounds, .op .keyAddr, .op .keyLen, .op .nonceAddr,
    .op .nonceLen, .op .aadAddr, .op .aadLen, .op .srcAddr, .op .srcLen, .op .dstAddr, .op .dstLen, .op .tagAddr,
    .op .ksiLo, .op .ksiHi, .op .arg, .op .iter].map Reg.offset = (List.range 23).map (4 * ·) ∧
  (∀ i, (Reg.kse i).offset = 0x100 + 4 * i ∧ (Reg.ksd i).offset = 0x200 + 4 * i) ∧
  (∀ (a : Nat) (bytes : Bytes),
    Stmt.ops (.data a bytes) = bytes.mapIdx (fun k b => .write .w8 (0x10000 + a + k) (b.setWidth 32)) ∧
    Stmt.ops (.checkmem a bytes) = bytes.mapIdx (fun k b => .expect .w8 (0x10000 + a + k) (b.setWidth 32))) ∧
  (∀ (a n : Nat) (b : Byte),
    Stmt.ops (.fill a n b) = (List.range n).map (fun k => .write .w8 (0x10000 + a + k) (b.setWidth 32))) ∧
  (∀ i : Instr, Stmt.ops (.exec i) = [.write .w32 0x014 (encode i)] ∧
    Stmt.ops (.run i) = [.write .w32 0x014 (encode i), .wait 0]) ∧
  (∀ v : Word, Stmt.ops (.execRaw v) = [.write .w32 0x014 v]) ∧
  Stmt.ops .wait = [.wait 0] ∧ Stmt.ops .clear = [.write .w32 0x00C 0x00000046] ∧
  (∀ a n : Word,
    Stmt.ops (.describe .key a n) = [.write .w32 0x020 a, .write .w32 0x024 n] ∧
    Stmt.ops (.describe .nonce a n) = [.write .w32 0x028 a, .write .w32 0x02C n] ∧
    Stmt.ops (.describe .aad a n) = [.write .w32 0x030 a, .write .w32 0x034 n] ∧
    Stmt.ops (.describe .src a n) = [.write .w32 0x038 a, .write .w32 0x03C n] ∧
    Stmt.ops (.describe .dst a n) = [.write .w32 0x040 a, .write .w32 0x044 n]) ∧
  (∀ v : Word, Stmt.ops (.tag v) = [.write .w32 0x048 v] ∧ Stmt.ops (.arg v) = [.write .w32 0x054 v] ∧
    Stmt.ops (.iter v) = [.write .w32 0x058 v]) ∧
  (∀ v : Nat, Stmt.ops (.ksi v) =
    [.write .w32 0x04C (BitVec.ofNat 32 (v % 2 ^ 32)), .write .w32 0x050 (BitVec.ofNat 32 (v / 2 ^ 32))]) ∧
  ∀ (st : Stmt) (init add close : Word),
    (st, init, add, close) ∈
      [(Stmt.sha256, 0x50, 0x51, 0x52), (.sha512, 0x54, 0x55, 0x56), (.blake2s, 0x58, 0x59, 0x5A),
       (.poly1305, 0x40, 0x41, 0x42), (.hmac .sha256, 0x060, 0x61, 0x62), (.hmac .sha512, 0x160, 0x61, 0x62),
       (.hmac .blake2s, 0x260, 0x61, 0x62)] →
    st.ops =
      [.write .w32 0x014 init, .wait 4, .write .w32 0x014 add, .wait 2, .write .w32 0x014 close, .wait 0]
end

