-- ==== Sys2Proof/Laws/Bytes.lean ====
section
/-! SUPPORT. The laws of byte strings and packing: lengths, pieces and chunks, little-endian integers, exclusive or. -/

namespace Sys2Proof.Machine

@[simp] theorem length_rep (v : Byte) (n : Nat) : (rep v n).length = n := by simp [rep]

@[simp] theorem length_zeros (n : Nat) : (zeros n).length = n := length_rep 0 n

@[simp] theorem length_xorBytes (a b : Bytes) : (xorBytes a b).length = min a.length b.length := by simp [xorBytes]

theorem length_slice (b : Bytes) (i n : Nat) : (slice b i n).length = min n (b.length - i) := by simp [slice]

@[simp] theorem length_toLe (v n : Nat) : (toLe v n).length = n := by
  induction n generalizing v with
  | zero => rfl
  | succ n ih => simp [toLe, ih]

@[simp] theorem length_toBe (v n : Nat) : (toBe v n).length = n := by simp [toBe]

@[simp] theorem length_toBe32 (w : Word) : (toBe32 w).length = 4 := length_toBe _ _

@[simp] theorem length_toLe32 (w : Word) : (toLe32 w).length = 4 := length_toLe _ _

@[simp] theorem length_toBe64 (w : BitVec 64) : (toBe64 w).length = 8 := length_toBe _ _

@[simp] theorem length_toLe64 (v : Nat) : (toLe64 v).length = 8 := length_toLe _ _

/-- `LEint` of R9 undoes `toLEn`, modulo the bytes there are. -/
theorem leInt_toLe (v n : Nat) : leInt (toLe v n) = v % 256 ^ n := by
  induction n generalizing v with
  | zero => simp [toLe, leInt, Nat.mod_one]
  | succ n ih =>
    simp only [toLe, leInt, ih, BitVec.toNat_ofNat]
    rw [show 256 ^ (n + 1) = 256 * 256 ^ n from by ring, Nat.mod_mul]

/-- `toLEn` of R9 undoes `LEint`. -/
theorem toLe_leInt (b : Bytes) : toLe (leInt b) b.length = b := by
  induction b with
  | nil => rfl
  | cons x b ih =>
    simp only [leInt, List.length_cons, toLe]
    have hx := x.isLt
    rw [show (x.toNat + 256 * leInt b) / 256 = leInt b by omega, ih]
    congr 1
    apply BitVec.eq_of_toNat_eq
    simp only [BitVec.toNat_ofNat]
    omega

theorem leInt_lt (b : Bytes) : leInt b < 256 ^ b.length := by
  induction b with
  | nil => simp [leInt]
  | cons x b ih =>
    have hx := x.isLt
    simp only [leInt, List.length_cons, Nat.pow_succ]
    omega

/-- `BEint` undoes `toBE`. -/
theorem beInt_toBe (v n : Nat) : beInt (toBe v n) = v % 256 ^ n := by
  simp [beInt, toBe, leInt_toLe]

theorem xorBytes_comm (a b : Bytes) : xorBytes a b = xorBytes b a := by
  simp [xorBytes, List.zipWith_comm_of_comm, BitVec.xor_comm]

/-- Exclusive or with the same string twice is nothing. -/
theorem xorBytes_cancel (a k : Bytes) (h : a.length ≤ k.length) : xorBytes (xorBytes a k) k = a := by
  induction a generalizing k with
  | nil => simp [xorBytes]
  | cons x a ih =>
    cases k with
    | nil => simp at h
    | cons y k =>
      simp only [List.length_cons, Nat.add_le_add_iff_right] at h
      have := ih k h
      simp only [xorBytes, List.zipWith_cons_cons] at this ⊢
      rw [this, BitVec.xor_assoc, BitVec.xor_self, BitVec.xor_zero]

@[simp] theorem length_pieces (n k : Nat) (b : Bytes) : (pieces n k b).length = k := by
  induction k generalizing b with
  | zero => rfl
  | succ k ih => simp [pieces, ih]

/-- The pieces and the rest put together are the string. -/
theorem pieces_flatten (n k : Nat) (b : Bytes) : (pieces n k b).flatten ++ b.drop (n * k) = b := by
  induction k generalizing b with
  | zero => simp [pieces]
  | succ k ih =>
    have := ih (b.drop n)
    simp only [pieces, List.flatten_cons, List.append_assoc, Nat.mul_succ]
    rw [List.drop_drop] at this
    rw [Nat.add_comm (n * k) n, this, List.take_append_drop]

/-- Pieces of a string that has them all are whole. -/
theorem length_of_mem_pieces (n k : Nat) (b : Bytes) (h : n * k ≤ b.length) (c : Bytes) (hc : c ∈ pieces n k b) :
    c.length = n := by
  induction k generalizing b with
  | zero => simp [pieces] at hc
  | succ k ih =>
    rw [Nat.mul_succ] at h
    simp only [pieces, List.mem_cons] at hc
    rcases hc with rfl | hc
    · simp
      omega
    · exact ih (b.drop n) (by simp; omega) hc

/-- The first k pieces do not see what comes after them. -/
theorem pieces_append (n k : Nat) (b d : Bytes) (h : n * k ≤ b.length) : pieces n k (b ++ d) = pieces n k b := by
  induction k generalizing b with
  | zero => rfl
  | succ k ih =>
    rw [Nat.mul_succ] at h
    simp only [pieces]
    rw [List.take_append_of_le_length (by omega), List.drop_append_of_le_length (by omega), ih]
    simp
    omega

/-- Cutting j + k pieces is cutting j, then k from what is left. -/
theorem pieces_add (n j k : Nat) (b : Bytes) : pieces n (j + k) b = pieces n j b ++ pieces n k (b.drop (n * j)) := by
  induction j generalizing b with
  | zero => simp [pieces]
  | succ j ih =>
    rw [show j + 1 + k = (j + k) + 1 by omega]
    simp only [pieces, ih, List.drop_drop, Nat.mul_succ, List.cons_append]
    rw [Nat.add_comm (n * j) n]

theorem ceilDiv_mul_ge (a n : Nat) (hn : 0 < n) : a ≤ n * ceilDiv a n := by
  unfold ceilDiv
  have h1 := Nat.div_add_mod (a + n - 1) n
  have h2 := Nat.mod_lt (a + n - 1) hn
  omega

/-- The chunks put together are the string. -/
theorem chunks_flatten (n : Nat) (hn : 0 < n) (b : Bytes) : (chunks n b).flatten = b := by
  have h := pieces_flatten n (ceilDiv b.length n) b
  rw [List.drop_eq_nil_of_le (ceilDiv_mul_ge _ _ hn), List.append_nil] at h
  exact h

/-- A whole number of blocks is cut into that number of pieces. -/
theorem chunks_of_mul (n k : Nat) (hn : 0 < n) (b : Bytes) (h : b.length = n * k) : chunks n b = pieces n k b := by
  unfold chunks
  congr 1
  unfold ceilDiv
  rw [h, show n * k + n - 1 = n * k + (n - 1) by omega, Nat.mul_add_div hn, Nat.div_eq_of_lt (by omega)]
  rfl

/-- PKCS#7 padding makes a positive multiple of 16 bytes (R183). -/
theorem length_pad7 (m : Bytes) : (pad7 m).length = m.length + 16 - m.length % 16 := by
  simp [pad7]
  omega

theorem length_pad16 (b : Bytes) : (pad16 b).length = 16 * ceilDiv b.length 16 := by
  simp only [pad16, List.length_append, length_zeros, ceilDiv]
  omega

end Sys2Proof.Machine
end

