-- ==== Sys2Proof/Laws/Lengths.lean ====
section
/-! SUPPORT. How many bytes each transform gives. -/

namespace Sys2Proof.Machine

/-! ## AES -/

@[simp] theorem length_lastWord (sub : Byte → Byte) (a b c d : Byte) (k : Word) :
    (lastWord sub a b c d k).length = 4 := rfl

@[simp] theorem length_encLast (k : List Word) (nr : Nat) (t : AesState) : (encLast k nr t).length = 16 := rfl

@[simp] theorem length_decLast (k : List Word) (nr : Nat) (t : AesState) : (decLast k nr t).length = 16 := rfl

@[simp] theorem length_aesEnc (k : List Word) (nr : Nat) (b : Bytes) (n : Nat) :
    (aesEnc k nr b n).length = min n 16 := by simp [aesEnc]

@[simp] theorem length_aesDec (k : List Word) (nr : Nat) (b : Bytes) (n : Nat) :
    (aesDec k nr b n).length = min n 16 := by simp [aesDec]

@[simp] theorem length_aesEncKey (key b : Bytes) (n : Nat) : (aesEncKey key b n).length = min n 16 := by
  simp [aesEncKey]

@[simp] theorem length_aesDecKey (key b : Bytes) : (aesDecKey key b).length = 16 := by simp [aesDecKey]

theorem length_expandLoop (nk n i : Nat) (ws : List Word) : (expandLoop nk n i ws).length = n + ws.length := by
  induction n generalizing i ws with
  | zero => simp [expandLoop]
  | succ n ih => simp [expandLoop, ih]; omega

/-- KeyExpansion gives 4·(Nr+1) words (R228). -/
theorem length_keyExpansion (key : Bytes) : (keyExpansion key).length = 4 * (keyNr key + 1) := by
  simp only [keyExpansion, List.length_reverse, length_expandLoop, List.length_map, List.length_range, keyNr]
  omega

/-- DecSchedule gives as many (R229). -/
theorem length_decSchedule (key : Bytes) : (decSchedule key).length = 4 * (keyNr key + 1) := by
  simp [decSchedule, Nat.mul_comm]

/-! ## CBC and CTR -/

theorem length_cbcEncBlocks (key prev : Bytes) (ds : List Bytes) :
    (cbcEncBlocks key prev ds).length = 16 * ds.length := by
  induction ds generalizing prev with
  | nil => rfl
  | cons d ds ih => simp [cbcEncBlocks, ih]; omega

theorem length_chunks (n : Nat) (b : Bytes) : (chunks n b).length = ceilDiv b.length n := by simp [chunks]

/-- `|CbcEnc(k, iv, m)|` (R271). -/
theorem length_cbcEnc (key iv m : Bytes) : (cbcEnc key iv m).length = m.length + 16 - m.length % 16 := by
  rw [cbcEnc, length_cbcEncBlocks, length_chunks, length_pad7, ceilDiv]
  omega

theorem length_cbcDecBlocks (key prev : Bytes) (cs : List Bytes) (hp : prev.length = 16)
    (h : ∀ c ∈ cs, c.length = 16) : (cbcDecBlocks key prev cs).length = 16 * cs.length := by
  induction cs generalizing prev with
  | nil => rfl
  | cons c cs ih =>
    simp only [cbcDecBlocks, List.length_append, length_xorBytes, length_aesDecKey, hp, List.length_cons]
    rw [ih c (h c (by simp)) (fun x hx => h x (by simp [hx]))]
    omega

theorem length_mem_chunks (n : Nat) (b : Bytes) (c : Bytes) (hc : c ∈ chunks n b) : c.length ≤ n := by
  unfold chunks at hc
  generalize ceilDiv b.length n = k at hc
  induction k generalizing b with
  | zero => simp [pieces] at hc
  | succ k ih =>
    simp only [pieces, List.mem_cons] at hc
    rcases hc with rfl | hc
    · simp
    · exact ih _ hc

theorem length_ctrBlocks (bits : CtrCounterBits) (key cb : Bytes) (cs : List Bytes) (h : ∀ c ∈ cs, c.length ≤ 16) :
    (ctrBlocks bits key cb cs).length = cs.flatten.length := by
  induction cs generalizing cb with
  | nil => rfl
  | cons c cs ih =>
    have hc := h c (by simp)
    simp only [ctrBlocks, List.length_append, length_xorBytes, length_aesEncKey, List.flatten_cons,
      ih _ (fun x hx => h x (by simp [hx]))]
    omega

/-- `|CtrXor(k, n, m, o)| = |m|` (R275). -/
@[simp] theorem length_ctrXor (bits : CtrCounterBits) (key n m : Bytes) (o : Nat) :
    (ctrXor bits key n m o).length = m.length := by
  rw [ctrXor, length_ctrBlocks _ _ _ _ (fun c hc => length_mem_chunks 16 m c hc), chunks_flatten 16 (by omega)]

/-- Unpadding never gives more bytes than it was given (R184). -/
theorem length_unpad7 (d p : Bytes) (h : unpad7 d = some p) : p.length ≤ d.length := by
  simp only [unpad7] at h
  split at h
  · cases h
  · split at h
    · cases h
    · split at h
      · obtain rfl := Option.some.inj h
        simp
      · cases h

theorem length_nonceInc (n : Bytes) (v : Nat) (h : 4 ≤ n.length) : (nonceInc n v).length = n.length := by
  simp [nonceInc]
  omega

/-! ## ChaCha20 and Poly1305 -/

@[simp] theorem length_chachaBlock (k : Bytes) (c : Word) (n : Bytes) : (chachaBlock k c n).length = 64 := by
  simp [chachaBlock, Words16.toList]

@[simp] theorem length_hchacha (k n : Bytes) : (hchacha k n).length = 32 := by simp [hchacha]

theorem length_flatMap_const {α : Type} (l : List α) (f : α → Bytes) (n : Nat) (h : ∀ x ∈ l, (f x).length = n) :
    (l.flatMap f).length = n * l.length := by
  induction l with
  | nil => simp
  | cons x l ih =>
    rw [List.flatMap_cons, List.length_append, h x (by simp), ih (fun y hy => h y (by simp [hy])), List.length_cons]
    ring

/-- The keystream has the length asked for (R315). -/
@[simp] theorem length_chachaStream (k n : Bytes) (o len : Nat) : (chachaStream k n o len).length = len := by
  simp only [chachaStream, List.length_take, List.length_drop]
  rw [length_flatMap_const _ _ 64 (by simp)]
  have := ceilDiv_mul_ge (o % 64 + len) 64 (by omega)
  simp only [List.length_range']
  omega

/-- `|ChaXor(k, n, m, o)| = |m|` (R315). -/
@[simp] theorem length_chachaXor (k n m : Bytes) (o : Nat) : (chachaXor k n m o).length = m.length := by
  simp [chachaXor]

@[simp] theorem length_xchachaXor (k n m : Bytes) (o : Nat) : (xchachaXor k n m o).length = m.length := by
  simp [xchachaXor]

@[simp] theorem length_polyTag (acc : Nat) (s : BitVec 128) : (polyTag acc s).length = 16 := by simp [polyTag]

@[simp] theorem length_poly1305 (k m : Bytes) : (poly1305 k m).length = 16 := by simp [poly1305]

@[simp] theorem length_polyFinal (c : Poly1305Ctx) : (polyFinal c).length = 16 := by simp [polyFinal]

@[simp] theorem length_aeadTag (k n a c : Bytes) : (aeadTag k n a c).length = 16 := by simp [aeadTag]

@[simp] theorem length_aeadCipher (k n m : Bytes) : (aeadCipher k n m).length = m.length := by simp [aeadCipher]

/-! ## Hashes -/

@[simp] theorem length_digest256 (h : Hash8 32) : (digest256 h).length = 32 := by simp [digest256, Hash8.toList]

@[simp] theorem length_digest512 (h : Hash8 64) : (digest512 h).length = 64 := by simp [digest512, Hash8.toList]

@[simp] theorem length_blakeLast (h : Hash8 32) (b : Bytes) (t : Nat) : (blakeLast h b t).length = 32 := by
  simp [blakeLast, Hash8.toList]

@[simp] theorem length_sha256Final (c : Sha2Ctx 32) : (sha256Final c).length = 32 := by simp [sha256Final]

@[simp] theorem length_sha512Final (c : Sha2Ctx 64) : (sha512Final c).length = 64 := by simp [sha512Final]

@[simp] theorem length_blake2sFinal (c : Blake2sCtx) : (blake2sFinal c).length = 32 := by simp [blake2sFinal]

/-- `|Hash_h(m)| = L_h` (R421). -/
@[simp] theorem HashAlg.length_hash (h : HashAlg) (m : Bytes) : (h.hash m).length = h.digestLen := by
  cases h <;> simp [HashAlg.hash, HashAlg.digestLen, Sys2Proof.Machine.sha256, Sys2Proof.Machine.sha512,
    Sys2Proof.Machine.blake2s]

@[simp] theorem HashCtx.length_final (c : HashCtx) : c.final.length = c.alg.digestLen := by
  cases c <;> simp [HashCtx.final, HashCtx.alg, HashAlg.digestLen]

theorem HashAlg.digestLen_le (h : HashAlg) : h.digestLen ≤ h.blockLen := by cases h <;> decide

/-- `K0_h(K)` has exactly B_h bytes (R441). -/
@[simp] theorem length_hmacKey (h : HashAlg) (k : Bytes) : (hmacKey h k).length = h.blockLen := by
  have := h.digestLen_le
  simp only [hmacKey, List.length_append, length_zeros]
  split
  · rw [h.length_hash]
    omega
  · omega

@[simp] theorem length_hmacIkey (h : HashAlg) (k : Bytes) : (hmacIkey h k).length = h.blockLen := by simp [hmacIkey]

@[simp] theorem length_hmacOkey (h : HashAlg) (k : Bytes) : (hmacOkey h k).length = h.blockLen := by simp [hmacOkey]

@[simp] theorem length_hmac (h : HashAlg) (k m : Bytes) : (hmac h k m).length = h.digestLen := by simp [hmac]

@[simp] theorem length_hmacFinal (c : HmacCtx) : (hmacFinal c).length = c.inner.alg.digestLen := by simp [hmacFinal]

@[simp] theorem HashCtx.alg_add (c : HashCtx) (d : Bytes) : (c.add d).alg = c.alg := by cases c <;> rfl

@[simp] theorem HashAlg.alg_init (h : HashAlg) : h.init.alg = h := by cases h <;> rfl

theorem length_pbkdf2Loop (h : HashAlg) (p : Bytes) (n : Nat) (u t : Bytes) (ht : t.length = h.digestLen) :
    (pbkdf2Loop h p n u t).length = h.digestLen := by
  induction n generalizing u t with
  | zero => exact ht
  | succ n ih =>
    rw [pbkdf2Loop]
    exact ih _ _ (by simp [ht])

@[simp] theorem length_pbkdf2Block (h : HashAlg) (p salt : Bytes) (c i : Nat) :
    (pbkdf2Block h p salt c i).length = h.digestLen := by
  rw [pbkdf2Block]
  exact length_pbkdf2Loop h p _ _ _ (by simp)

theorem HashAlg.digestLen_pos (h : HashAlg) : 0 < h.digestLen := by cases h <;> decide

/-- PBKDF2 gives the ceil(n/8) bytes asked for (R443). -/
@[simp] theorem length_pbkdf2 (h : HashAlg) (p salt : Bytes) (c bits : Nat) :
    (pbkdf2 h p salt c bits).length = ceilDiv bits 8 := by
  simp only [pbkdf2, List.length_take]
  rw [length_flatMap_const _ _ h.digestLen (by simp)]
  have := ceilDiv_mul_ge (ceilDiv bits 8) h.digestLen h.digestLen_pos
  simp only [List.length_range']
  omega

end Sys2Proof.Machine
end

