-- ==== Sys2Proof/Laws/Aes.lean ====
section
/-! SUPPORT. The words of AES as four bytes, and the linearity of its mixing: what a proof about the rounds of
41_aes_engine.md R230 and R231 needs to go from tables to bytes. -/

namespace Sys2Proof.Machine

/-- The bits of a word of four bytes. -/
theorem getLsbD_ofBytes (a b c d : Byte) (i : Nat) : (ofBytes a b c d).getLsbD i =
    if i < 8 then d.getLsbD i else if i < 16 then c.getLsbD (i - 8) else if i < 24 then b.getLsbD (i - 16)
    else a.getLsbD (i - 24) := by
  unfold ofBytes
  rw [BitVec.getLsbD_append, BitVec.getLsbD_append, BitVec.getLsbD_append]
  have e1 : i - 8 - 8 = i - 16 := by omega
  have e2 : i - 16 - 8 = i - 24 := by omega
  have h1 : (i - 8 < 8) = (i < 16) := by rw [eq_iff_iff]; omega
  have h2 : (i - 16 < 8) = (i < 24) := by rw [eq_iff_iff]; omega
  simp only [e1, e2, h1, h2]

/-- The top byte of a word of four bytes. -/
@[simp] theorem byte3_ofBytes (a b c d : Byte) : byte3 (ofBytes a b c d) = a := by
  apply BitVec.eq_of_getLsbD_eq
  intro i hi
  simp only [byte3, BitVec.getLsbD_extractLsb', getLsbD_ofBytes]
  simp [hi, show ¬ (24 + i < 8) by omega, show ¬ (24 + i < 16) by omega]

/-- The second byte of a word of four bytes. -/
@[simp] theorem byte2_ofBytes (a b c d : Byte) : byte2 (ofBytes a b c d) = b := by
  apply BitVec.eq_of_getLsbD_eq
  intro i hi
  simp only [byte2, BitVec.getLsbD_extractLsb', getLsbD_ofBytes]
  simp [hi, show ¬ (16 + i < 8) by omega, show (16 + i < 24) by omega]

/-- The third byte of a word of four bytes. -/
@[simp] theorem byte1_ofBytes (a b c d : Byte) : byte1 (ofBytes a b c d) = c := by
  apply BitVec.eq_of_getLsbD_eq
  intro i hi
  simp only [byte1, BitVec.getLsbD_extractLsb', getLsbD_ofBytes]
  simp [hi, show (8 + i < 16) by omega]

/-- The low byte of a word of four bytes. -/
@[simp] theorem byte0_ofBytes (a b c d : Byte) : byte0 (ofBytes a b c d) = d := by
  apply BitVec.eq_of_getLsbD_eq
  intro i hi
  simp only [byte0, BitVec.getLsbD_extractLsb', getLsbD_ofBytes]
  simp [hi]

/-- A word is the word of its four bytes. -/
@[simp] theorem ofBytes_bytes (w : Word) : ofBytes (byte3 w) (byte2 w) (byte1 w) (byte0 w) = w := by
  apply BitVec.eq_of_getLsbD_eq
  intro i hi
  rw [getLsbD_ofBytes]
  simp only [byte3, byte2, byte1, byte0, BitVec.getLsbD_extractLsb']
  by_cases h1 : i < 8 <;> by_cases h2 : i < 16 <;> by_cases h3 : i < 24 <;> simp [h1, h2, h3] <;> (try omega)
  · simp [show i - 8 < 8 by omega, show 8 + (i - 8) = i by omega]
  · simp [show i - 16 < 8 by omega, show 16 + (i - 16) = i by omega]
  · simp [show i - 24 < 8 by omega, show 24 + (i - 24) = i by omega]

/-- Exclusive or acts on the four bytes of a word one by one. -/
theorem ofBytes_xor (a b c d a' b' c' d' : Byte) : ofBytes a b c d ^^^ ofBytes a' b' c' d' = ofBytes (a ^^^ a') (b ^^^ b') (c ^^^ c') (d ^^^ d') := by
  apply BitVec.eq_of_getLsbD_eq
  intro i hi
  simp only [BitVec.getLsbD_xor, getLsbD_ofBytes]
  split_ifs <;> rfl

/-- A rotation by 8 moves the low byte to the top. -/
theorem rot8_ofBytes (a b c d : Byte) : (ofBytes a b c d).rotateRight 8 = ofBytes d a b c := by
  apply BitVec.eq_of_getLsbD_eq
  intro i hi
  rw [BitVec.getLsbD_rotateRight]
  simp only [getLsbD_ofBytes, show 8 % 32 = 8 from rfl, show 32 - 8 = 24 from rfl]
  by_cases g1 : i < 8
  · simp [g1, show 8 + i < 16 by omega, show ¬ (8 + i < 8) by omega, show i < 24 by omega]
  · by_cases g2 : i < 16
    · simp [g1, g2, show ¬ (8 + i < 16) by omega, show (8 + i < 24) by omega, show ¬ (8 + i < 8) by omega, show i < 24 by omega, show 8 + i - 16 = i - 8 by omega]
    · by_cases g3 : i < 24
      · simp [g1, g2, g3, show ¬ (8 + i < 16) by omega, show ¬ (8 + i < 24) by omega, show ¬ (8 + i < 8) by omega, show 8 + i - 24 = i - 16 by omega]
      · simp [g1, g2, g3, hi, show i - 24 < 8 by omega]

/-- A rotation by 16 swaps the halves. -/
theorem rot16_ofBytes (a b c d : Byte) : (ofBytes a b c d).rotateRight 16 = ofBytes c d a b := by
  apply BitVec.eq_of_getLsbD_eq
  intro i hi
  rw [BitVec.getLsbD_rotateRight]
  simp only [getLsbD_ofBytes, show 16 % 32 = 16 from rfl, show 32 - 16 = 16 from rfl]
  by_cases g1 : i < 8
  · simp [g1, show 16 + i < 24 by omega, show ¬ (16 + i < 16) by omega, show ¬ (16 + i < 8) by omega, show i < 16 by omega]
  · by_cases g2 : i < 16
    · simp [g1, g2, show ¬ (16 + i < 24) by omega, show ¬ (16 + i < 16) by omega, show ¬ (16 + i < 8) by omega, show 16 + i - 24 = i - 8 by omega]
    · by_cases g3 : i < 24
      · simp [g1, g2, g3, hi, show i - 16 < 8 by omega]
      · simp [g1, g2, g3, hi, show ¬ (i - 16 < 8) by omega, show i - 16 < 16 by omega, show i - 16 - 8 = i - 24 by omega]

/-- A rotation by 24 moves the top byte to the bottom. -/
theorem rot24_ofBytes (a b c d : Byte) : (ofBytes a b c d).rotateRight 24 = ofBytes b c d a := by
  apply BitVec.eq_of_getLsbD_eq
  intro i hi
  rw [BitVec.getLsbD_rotateRight]
  simp only [getLsbD_ofBytes, show 24 % 32 = 24 from rfl, show 32 - 24 = 8 from rfl]
  by_cases g1 : i < 8
  · simp [g1, show ¬ (24 + i < 24) by omega, show ¬ (24 + i < 16) by omega, show ¬ (24 + i < 8) by omega]
  · by_cases g2 : i < 16
    · simp [g1, g2, hi, show i - 8 < 8 by omega]
    · by_cases g3 : i < 24
      · simp [g1, g2, g3, hi, show ¬ (i - 8 < 8) by omega, show i - 8 < 16 by omega, show i - 8 - 8 = i - 16 by omega]
      · simp [g1, g2, g3, hi, show ¬ (i - 8 < 8) by omega, show ¬ (i - 8 < 16) by omega, show i - 8 < 24 by omega, show i - 8 - 16 = i - 24 by omega]

/-! ## Mixing -/

/-- xtime is linear (R181). -/
theorem xtime_xor (a b : Byte) : xtime (a ^^^ b) = xtime a ^^^ xtime b := by
  unfold xtime
  rw [BitVec.getLsbD_xor, BitVec.shiftLeft_xor_distrib]
  cases a.getLsbD 7 <;> cases b.getLsbD 7 <;> simp
  · rw [BitVec.xor_assoc]
  · rw [BitVec.xor_assoc, BitVec.xor_assoc]; congr 1; exact BitVec.xor_comm _ _
  · rw [BitVec.xor_assoc, ← BitVec.xor_assoc 0x1B#8, BitVec.xor_comm 0x1B#8, BitVec.xor_assoc, BitVec.xor_self, BitVec.xor_zero]

/-- The loop of R182 is linear in its second factor and its result. -/
theorem gmulLoop_xor (n : Nat) (a b c r q : Byte) : gmulLoop n a (b ^^^ c) (r ^^^ q) = gmulLoop n a b r ^^^ gmulLoop n a c q := by
  induction n generalizing a b c r q with
  | zero => rfl
  | succ n ih =>
    simp only [gmulLoop, BitVec.getLsbD_xor, BitVec.ushiftRight_xor_distrib]
    rw [← ih]
    congr 1
    cases b.getLsbD 0 <;> cases c.getLsbD 0 <;> simp
    · rw [BitVec.xor_assoc]
    · rw [BitVec.xor_assoc, BitVec.xor_assoc]; congr 1; exact BitVec.xor_comm _ _
    · rw [BitVec.xor_assoc, ← BitVec.xor_assoc a, BitVec.xor_comm a, BitVec.xor_assoc, BitVec.xor_self, BitVec.xor_zero]

/-- The GF(2^8) product is linear in its second factor (R182). -/
theorem gmul_xor (a b c : Byte) : gmul a (b ^^^ c) = gmul a b ^^^ gmul a c := gmulLoop_xor 8 a b c 0 0

/-- What a four-table lookup gives, byte by byte, for a table of four byte functions (R226, R230, R231). -/
theorem lookup4_ofBytes (f3 f2 f1 f0 : Byte → Byte) (x1 x2 x3 x4 : Byte) :
    lookup4 (fun x => ofBytes (f3 x) (f2 x) (f1 x) (f0 x)) x1 x2 x3 x4 =
      ofBytes (f3 x1 ^^^ f0 x2 ^^^ f1 x3 ^^^ f2 x4) (f2 x1 ^^^ f3 x2 ^^^ f0 x3 ^^^ f1 x4) (f1 x1 ^^^ f2 x2 ^^^ f3 x3 ^^^ f0 x4) (f0 x1 ^^^ f1 x2 ^^^ f2 x3 ^^^ f3 x4) := by
  simp only [lookup4, rot8_ofBytes, rot16_ofBytes, rot24_ofBytes, ofBytes_xor]

/-- The diagonal of InvMixColumns after MixColumns is the identity. -/
theorem unmix1 : ∀ x : Byte, gmul 0x0E (gmul 0x02 x) ^^^ gmul 0x0B x ^^^ gmul 0x0D x ^^^ gmul 0x09 (gmul 0x03 x) = x := by decide +kernel

/-- The entries of InvMixColumns after MixColumns one place off the diagonal cancel. -/
theorem unmix2 : ∀ x : Byte, gmul 0x0E (gmul 0x03 x) ^^^ gmul 0x0B (gmul 0x02 x) ^^^ gmul 0x0D x ^^^ gmul 0x09 x = 0 := by
  decide +kernel

/-- The entries two places off the diagonal cancel. -/
theorem unmix3 : ∀ x : Byte, gmul 0x0E x ^^^ gmul 0x0B (gmul 0x03 x) ^^^ gmul 0x0D (gmul 0x02 x) ^^^ gmul 0x09 x = 0 := by
  decide +kernel

/-- The entries three places off the diagonal cancel. -/
theorem unmix4 : ∀ x : Byte, gmul 0x0E x ^^^ gmul 0x0B x ^^^ gmul 0x0D (gmul 0x03 x) ^^^ gmul 0x09 (gmul 0x02 x) = 0 := by
  decide +kernel

/-- One row of InvMixColumns after MixColumns gives back its byte; the four rows are this one with the bytes rotated. -/
theorem unmix_row (a b c d : Byte) :
    gmul 0x0E (gmul 0x02 a ^^^ gmul 0x03 b ^^^ c ^^^ d) ^^^ gmul 0x0B (gmul 0x02 b ^^^ gmul 0x03 c ^^^ d ^^^ a) ^^^
      gmul 0x0D (gmul 0x02 c ^^^ gmul 0x03 d ^^^ a ^^^ b) ^^^ gmul 0x09 (gmul 0x02 d ^^^ gmul 0x03 a ^^^ b ^^^ c) = a := by
  simp only [gmul_xor]
  calc
    _ = (gmul 0x0E (gmul 0x02 a) ^^^ gmul 0x0B a ^^^ gmul 0x0D a ^^^ gmul 0x09 (gmul 0x03 a)) ^^^
        (gmul 0x0E (gmul 0x03 b) ^^^ gmul 0x0B (gmul 0x02 b) ^^^ gmul 0x0D b ^^^ gmul 0x09 b) ^^^
        (gmul 0x0E c ^^^ gmul 0x0B (gmul 0x03 c) ^^^ gmul 0x0D (gmul 0x02 c) ^^^ gmul 0x09 c) ^^^
        (gmul 0x0E d ^^^ gmul 0x0B d ^^^ gmul 0x0D (gmul 0x03 d) ^^^ gmul 0x09 (gmul 0x02 d)) := by ac_rfl
    _ = a ^^^ 0#8 ^^^ 0#8 ^^^ 0#8 := by rw [unmix1, unmix2, unmix3, unmix4]; rfl
    _ = a := by simp only [BitVec.xor_zero]

/-- InvMixWord of a word of four bytes (R226). -/
theorem invMixWord_ofBytes (a b c d : Byte) : invMixWord (ofBytes a b c d) =
    ofBytes (gmul 0x0E a ^^^ gmul 0x0B b ^^^ gmul 0x0D c ^^^ gmul 0x09 d)
      (gmul 0x09 a ^^^ gmul 0x0E b ^^^ gmul 0x0B c ^^^ gmul 0x0D d)
      (gmul 0x0D a ^^^ gmul 0x09 b ^^^ gmul 0x0E c ^^^ gmul 0x0B d)
      (gmul 0x0B a ^^^ gmul 0x0D b ^^^ gmul 0x09 c ^^^ gmul 0x0E d) := by
  unfold invMixWord
  rw [byte3_ofBytes, byte2_ofBytes, byte1_ofBytes, byte0_ofBytes]
  exact lookup4_ofBytes (gmul 0x0E) (gmul 0x09) (gmul 0x0D) (gmul 0x0B) a b c d

/-- InvMixWord is linear (R226). -/
theorem invMixWord_xor (x y : Word) : invMixWord (x ^^^ y) = invMixWord x ^^^ invMixWord y := by
  rw [← ofBytes_bytes x, ← ofBytes_bytes y, ofBytes_xor]
  simp only [invMixWord_ofBytes, gmul_xor, ofBytes_xor]
  congr 1 <;> ac_rfl

/-- InvMixWord undoes the mixing in the encryption tables: only the substituted bytes are left (R224, R226). -/
theorem invMixWord_lookup4_tableE1 (x1 x2 x3 x4 : Byte) :
    invMixWord (lookup4 tableE1 x1 x2 x3 x4) = ofBytes (sbox x1) (sbox x2) (sbox x3) (sbox x4) := by
  have e : lookup4 tableE1 x1 x2 x3 x4 = _ :=
    lookup4_ofBytes (fun x => gmul 0x02 (sbox x)) sbox sbox (fun x => gmul 0x03 (sbox x)) x1 x2 x3 x4
  rw [e, invMixWord_ofBytes]
  congr 1
  · refine Eq.trans ?_ (unmix_row (sbox x1) (sbox x2) (sbox x3) (sbox x4))
    simp only [gmul_xor]
    ac_rfl
  · refine Eq.trans ?_ (unmix_row (sbox x2) (sbox x3) (sbox x4) (sbox x1))
    simp only [gmul_xor]
    ac_rfl
  · refine Eq.trans ?_ (unmix_row (sbox x3) (sbox x4) (sbox x1) (sbox x2))
    simp only [gmul_xor]
    ac_rfl
  · refine Eq.trans ?_ (unmix_row (sbox x4) (sbox x1) (sbox x2) (sbox x3))
    simp only [gmul_xor]
    ac_rfl

/-- The decryption tables are InvMixWord of the inversely substituted bytes (R225, R226). -/
theorem lookup4_tableD1 (x1 x2 x3 x4 : Byte) :
    lookup4 tableD1 x1 x2 x3 x4 = invMixWord (ofBytes (invSbox x1) (invSbox x2) (invSbox x3) (invSbox x4)) := by
  unfold invMixWord
  rw [byte3_ofBytes, byte2_ofBytes, byte1_ofBytes, byte0_ofBytes]
  rfl

end Sys2Proof.Machine
end

