-- ==== Sys2Proof/Laws/Memory.lean ====
section
/-! SUPPORT. The laws of DMEM: a read after a write, the canonical form and what keeps it, and equal reads of canonical
memories mean equal memories. -/

namespace Sys2Proof.Machine

@[simp] theorem Memory.read_nil (a : Nat) : Memory.read [] a = unwrittenByte := rfl

theorem Memory.read_cons (x : Nat) (v : Byte) (m : Memory) (a : Nat) :
    Memory.read ((x, v) :: m) a = if x = a then v else Memory.read m a := rfl

/-- Below the first listed address every byte is the unwritten one. -/
theorem Memory.read_of_lt {lo : Nat} {m : Memory} (h : Memory.wfFrom lo m = true) {a : Nat} (ha : a < lo) :
    Memory.read m a = unwrittenByte := by
  induction m generalizing lo with
  | nil => rfl
  | cons c m ih =>
    obtain ⟨x, v⟩ := c
    simp only [Memory.wfFrom, Bool.and_eq_true, decide_eq_true_eq] at h
    rw [Memory.read_cons, if_neg (by omega)]
    exact ih h.2 (by omega)

/-- A read after a write: the written byte at its address, the old byte everywhere else. -/
theorem Memory.read_write {lo : Nat} {m : Memory} (h : Memory.wfFrom lo m = true) (a : Nat) (b : Byte) (c : Nat) :
    Memory.read (Memory.write m a b) c = if c = a then b else Memory.read m c := by
  induction m generalizing lo with
  | nil =>
    simp only [Memory.write]
    by_cases hb : b = unwrittenByte
    · by_cases hc : c = a <;> simp [hb, hc]
    · by_cases hc : c = a
      · simp [hb, hc, Memory.read_cons]
      · simp [hb, hc, Memory.read_cons, Ne.symm hc]
  | cons d m ih =>
    obtain ⟨x, v⟩ := d
    simp only [Memory.wfFrom, Bool.and_eq_true, decide_eq_true_eq, bne_iff_ne] at h
    obtain ⟨⟨hlo, hv⟩, hm⟩ := h
    simp only [Memory.write]
    by_cases hax : a < x
    · rw [if_pos hax]
      by_cases hb : b = unwrittenByte
      · rw [if_pos hb]
        by_cases hc : c = a
        · subst hc
          have : Memory.read m c = unwrittenByte := Memory.read_of_lt hm (by omega)
          rw [if_pos rfl, Memory.read_cons, if_neg (by omega), this, hb]
        · rw [if_neg hc]
      · rw [if_neg hb, Memory.read_cons]
        by_cases hc : c = a
        · simp [hc]
        · rw [if_neg (Ne.symm hc), if_neg hc]
    · rw [if_neg hax]
      by_cases hx : a = x
      · subst hx
        rw [if_pos rfl]
        by_cases hb : b = unwrittenByte
        · rw [if_pos hb]
          by_cases hc : c = a
          · subst hc
            rw [if_pos rfl, hb]
            exact Memory.read_of_lt hm (by omega)
          · rw [if_neg hc, Memory.read_cons, if_neg (Ne.symm hc)]
        · rw [if_neg hb, Memory.read_cons]
          by_cases hc : c = a
          · simp [hc]
          · rw [if_neg (Ne.symm hc), if_neg hc, Memory.read_cons, if_neg (Ne.symm hc)]
      · rw [if_neg hx, Memory.read_cons, ih hm, Memory.read_cons]
        by_cases hc : x = c
        · rw [if_pos hc, if_pos hc, if_neg (by omega)]
        · rw [if_neg hc, if_neg hc]

/-- A weaker lower bound is a lower bound. -/
theorem Memory.wfFrom_mono {lo lo' : Nat} {m : Memory} (h : Memory.wfFrom lo m = true) (hl : lo' ≤ lo) :
    Memory.wfFrom lo' m = true := by
  cases m with
  | nil => rfl
  | cons c m =>
    simp only [Memory.wfFrom, Bool.and_eq_true, decide_eq_true_eq] at h ⊢
    exact ⟨⟨by omega, h.1.2⟩, h.2⟩

/-- A write keeps the rising order and lists no unwritten byte. -/
theorem Memory.wfFrom_write {lo : Nat} {m : Memory} (h : Memory.wfFrom lo m = true) {a : Nat} (ha : lo ≤ a)
    (b : Byte) : Memory.wfFrom lo (Memory.write m a b) = true := by
  induction m generalizing lo with
  | nil =>
    simp only [Memory.write]
    by_cases hb : b = unwrittenByte
    · simp [hb, Memory.wfFrom]
    · simp [hb, Memory.wfFrom, ha]
  | cons d m ih =>
    obtain ⟨x, v⟩ := d
    have h0 := h
    simp only [Memory.wfFrom, Bool.and_eq_true, decide_eq_true_eq, bne_iff_ne] at h
    obtain ⟨⟨hlo, hv⟩, hm⟩ := h
    simp only [Memory.write]
    split
    · split
      · exact h0
      · rename_i hax hb
        simp only [Memory.wfFrom, Bool.and_eq_true, decide_eq_true_eq, bne_iff_ne]
        exact ⟨⟨ha, hb⟩, ⟨⟨by omega, hv⟩, hm⟩⟩
    · split
      · split
        · exact Memory.wfFrom_mono hm (by omega)
        · rename_i hax hb
          simp only [Memory.wfFrom, Bool.and_eq_true, decide_eq_true_eq, bne_iff_ne]
          subst hax
          exact ⟨⟨ha, hb⟩, hm⟩
      · simp only [Memory.wfFrom, Bool.and_eq_true, decide_eq_true_eq, bne_iff_ne]
        exact ⟨⟨hlo, hv⟩, ih hm (by omega)⟩

/-- A write below `size` lists only addresses below `size`. -/
theorem Memory.bounded_write {size : Nat} {m : Memory} (h : m.all (fun c => decide (c.1 < size)) = true) {a : Nat}
    (ha : a < size) (b : Byte) : (Memory.write m a b).all (fun c => decide (c.1 < size)) = true := by
  induction m with
  | nil =>
    simp only [Memory.write]
    split <;> simp [ha]
  | cons d m ih =>
    obtain ⟨x, v⟩ := d
    simp only [List.all_cons, Bool.and_eq_true, decide_eq_true_eq] at h
    simp only [Memory.write]
    split
    · split
      · simpa using h
      · simpa [ha] using h
    · split
      · split
        · exact h.2
        · simpa [ha] using h.2
      · simp only [List.all_cons, Bool.and_eq_true, decide_eq_true_eq]
        exact ⟨h.1, ih h.2⟩

theorem Memory.wf_iff {size : Nat} {m : Memory} :
    Memory.wf size m = true ↔ Memory.wfFrom 0 m = true ∧ m.all (fun c => decide (c.1 < size)) = true := by
  simp [Memory.wf]

/-- A write inside DMEM keeps the canonical form. -/
theorem Memory.wf_write {size : Nat} {m : Memory} (h : Memory.wf size m = true) {a : Nat} (ha : a < size) (b : Byte) :
    Memory.wf size (Memory.write m a b) = true := by
  rw [Memory.wf_iff] at h ⊢
  exact ⟨Memory.wfFrom_write h.1 (Nat.zero_le a) b, Memory.bounded_write h.2 ha b⟩

/-- Writing a byte string that lies inside DMEM keeps the canonical form. -/
theorem Memory.wf_writeBytes {size : Nat} {m : Memory} (h : Memory.wf size m = true) {a : Nat} {v : Bytes}
    (ha : a + v.length ≤ size) : Memory.wf size (Memory.writeBytes m a v) = true := by
  induction v generalizing m a with
  | nil => exact h
  | cons b v ih =>
    simp only [List.length_cons] at ha
    exact ih (Memory.wf_write h (by omega) b) (by omega)

theorem Memory.wfFrom_writeBytes {m : Memory} (h : Memory.wfFrom 0 m = true) (a : Nat) (v : Bytes) :
    Memory.wfFrom 0 (Memory.writeBytes m a v) = true := by
  induction v generalizing m a with
  | nil => exact h
  | cons b v ih => exact ih (Memory.wfFrom_write h (Nat.zero_le a) b) (a + 1)

/-- A read after writing a byte string: its bytes inside the written range, the old bytes outside it. -/
theorem Memory.read_writeBytes {m : Memory} (h : Memory.wfFrom 0 m = true) (a : Nat) (v : Bytes) (c : Nat) :
    Memory.read (Memory.writeBytes m a v) c =
      if a ≤ c ∧ c < a + v.length then v.getD (c - a) 0 else Memory.read m c := by
  induction v generalizing m a with
  | nil =>
    rw [if_neg (by simp)]
    rfl
  | cons b v ih =>
    simp only [Memory.writeBytes, List.length_cons]
    rw [ih (Memory.wfFrom_write h (Nat.zero_le a) b), Memory.read_write h]
    by_cases hc : c = a
    · subst hc
      rw [if_neg (by omega), if_pos rfl, if_pos (by omega)]
      simp
    · by_cases hin : a ≤ c ∧ c < a + (v.length + 1)
      · rw [if_pos (by omega), if_pos hin]
        obtain ⟨k, hk⟩ : ∃ k, c - a = k + 1 := ⟨c - a - 1, by omega⟩
        rw [hk, show c - (a + 1) = k by omega]
        simp
      · rw [if_neg (by omega), if_neg hc, if_neg hin]

@[simp] theorem Memory.length_readBytes (m : Memory) (a n : Nat) : (Memory.readBytes m a n).length = n := by
  simp [Memory.readBytes]

/-- Byte i of a region is the byte at its i-th address. -/
theorem Memory.getD_readBytes (m : Memory) (a n i : Nat) (hi : i < n) :
    (Memory.readBytes m a n).getD i 0 = Memory.read m (a + i) := by
  simp [Memory.readBytes, List.getD, hi]

/-- Memories that read alike read alike in regions. -/
theorem Memory.readBytes_congr {m m' : Memory} (a n : Nat) (h : ∀ c, a ≤ c → c < a + n → m.read c = m'.read c) :
    Memory.readBytes m a n = Memory.readBytes m' a n := by
  apply List.map_congr_left
  intro c hc
  rw [List.mem_range'_1] at hc
  exact h c hc.1 hc.2

/-- Reading back a byte string just written. -/
theorem Memory.readBytes_writeBytes {m : Memory} (h : Memory.wfFrom 0 m = true) (a : Nat) (v : Bytes) :
    Memory.readBytes (Memory.writeBytes m a v) a v.length = v := by
  apply List.ext_getElem
  · simp
  · intro i h1 h2
    simp only [Memory.readBytes, List.getElem_map, List.getElem_range']
    rw [Memory.read_writeBytes h, if_pos (by omega)]
    simp [List.getD, h2]

/-- Canonical memories with equal reads are equal lists. -/
theorem Memory.ext_of_wf {lo : Nat} {m m' : Memory} (h : Memory.wfFrom lo m = true) (h' : Memory.wfFrom lo m' = true)
    (heq : ∀ a, m.read a = m'.read a) : m = m' := by
  induction m generalizing lo m' with
  | nil =>
    cases m' with
    | nil => rfl
    | cons d m' =>
      obtain ⟨x, v⟩ := d
      simp only [Memory.wfFrom, Bool.and_eq_true, bne_iff_ne] at h'
      have := heq x
      simp [Memory.read_cons] at this
      exact absurd this.symm h'.1.2
  | cons c m ih =>
    obtain ⟨x, v⟩ := c
    cases m' with
    | nil =>
      simp only [Memory.wfFrom, Bool.and_eq_true, bne_iff_ne] at h
      have := heq x
      simp [Memory.read_cons] at this
      exact absurd this h.1.2
    | cons d m' =>
      obtain ⟨y, u⟩ := d
      simp only [Memory.wfFrom, Bool.and_eq_true, decide_eq_true_eq, bne_iff_ne] at h h'
      have hxy : x = y := by
        rcases Nat.lt_trichotomy x y with hl | he | hg
        · have := heq x
          rw [Memory.read_cons, if_pos rfl, Memory.read_cons, if_neg (by omega),
            Memory.read_of_lt h'.2 (by omega)] at this
          exact absurd this h.1.2
        · exact he
        · have := heq y
          rw [Memory.read_cons, if_neg (by omega), Memory.read_of_lt h.2 (by omega), Memory.read_cons,
            if_pos rfl] at this
          exact absurd this.symm h'.1.2
      subst hxy
      have hv : v = u := by
        have := heq x
        simpa [Memory.read_cons] using this
      subst hv
      congr 1
      refine ih h.2 h'.2 (fun a => ?_)
      by_cases hax : x = a
      · subst hax
        rw [Memory.read_of_lt h.2 (by omega), Memory.read_of_lt h'.2 (by omega)]
      · have := heq a
        rwa [Memory.read_cons, if_neg hax, Memory.read_cons, if_neg hax] at this

end Sys2Proof.Machine
end

