-- ==== Sys2Proof/Laws/State.lean ====
section
/-! SUPPORT. What each named update of the state leaves in each field: one lemma per field per update, true by rfl. -/

namespace Sys2Proof.Machine

variable (s : State)

/-! `State.finish` -/

@[simp] theorem State.finish_params (n : Nat) : (s.finish n).params = s.params := rfl
@[simp] theorem State.finish_irqEn (n : Nat) : (s.finish n).irqEn = s.irqEn := rfl
@[simp] theorem State.finish_done (n : Nat) : (s.finish n).done = true := rfl
@[simp] theorem State.finish_err (n : Nat) : (s.finish n).err = false := rfl
@[simp] theorem State.finish_eqFlag (n : Nat) : (s.finish n).eqFlag = s.eqFlag := rfl
@[simp] theorem State.finish_werr (n : Nat) : (s.finish n).werr = s.werr := rfl
@[simp] theorem State.finish_errcode (n : Nat) : (s.finish n).errcode = .success := rfl
@[simp] theorem State.finish_cmd (n : Nat) : (s.finish n).cmd = s.cmd := rfl
@[simp] theorem State.finish_outLen (n : Nat) : (s.finish n).outLen = BitVec.ofNat 32 n := rfl
@[simp] theorem State.finish_ops (n : Nat) : (s.finish n).ops = s.ops := rfl
@[simp] theorem State.finish_kse (n : Nat) : (s.finish n).kse = s.kse := rfl
@[simp] theorem State.finish_ksd (n : Nat) : (s.finish n).ksd = s.ksd := rfl
@[simp] theorem State.finish_sha256 (n : Nat) : (s.finish n).sha256 = s.sha256 := rfl
@[simp] theorem State.finish_sha512 (n : Nat) : (s.finish n).sha512 = s.sha512 := rfl
@[simp] theorem State.finish_blake2s (n : Nat) : (s.finish n).blake2s = s.blake2s := rfl
@[simp] theorem State.finish_poly1305 (n : Nat) : (s.finish n).poly1305 = s.poly1305 := rfl
@[simp] theorem State.finish_hmac (n : Nat) : (s.finish n).hmac = s.hmac := rfl
@[simp] theorem State.finish_phase (n : Nat) : (s.finish n).phase = .idle := rfl
@[simp] theorem State.finish_dmem (n : Nat) : (s.finish n).dmem = s.dmem := rfl
@[simp] theorem State.finish_host (n : Nat) : (s.finish n).host = s.host := rfl
@[simp] theorem State.finish_hostData (n : Nat) : (s.finish n).hostData = s.hostData := rfl
@[simp] theorem State.finish_checkFailed (n : Nat) : (s.finish n).checkFailed = s.checkFailed := rfl
@[simp] theorem State.finish_draws (n : Nat) : (s.finish n).draws = s.draws := rfl

/-! `State.raise` -/

@[simp] theorem State.raise_params (e : ErrCode) : (s.raise e).params = s.params := rfl
@[simp] theorem State.raise_irqEn (e : ErrCode) : (s.raise e).irqEn = s.irqEn := rfl
@[simp] theorem State.raise_done (e : ErrCode) : (s.raise e).done = true := rfl
@[simp] theorem State.raise_err (e : ErrCode) : (s.raise e).err = true := rfl
@[simp] theorem State.raise_eqFlag (e : ErrCode) : (s.raise e).eqFlag = s.eqFlag := rfl
@[simp] theorem State.raise_werr (e : ErrCode) : (s.raise e).werr = s.werr := rfl
@[simp] theorem State.raise_errcode (e : ErrCode) : (s.raise e).errcode = e := rfl
@[simp] theorem State.raise_cmd (e : ErrCode) : (s.raise e).cmd = s.cmd := rfl
@[simp] theorem State.raise_outLen (e : ErrCode) : (s.raise e).outLen = 0 := rfl
@[simp] theorem State.raise_ops (e : ErrCode) : (s.raise e).ops = s.ops := rfl
@[simp] theorem State.raise_kse (e : ErrCode) : (s.raise e).kse = s.kse := rfl
@[simp] theorem State.raise_ksd (e : ErrCode) : (s.raise e).ksd = s.ksd := rfl
@[simp] theorem State.raise_sha256 (e : ErrCode) : (s.raise e).sha256 = s.sha256 := rfl
@[simp] theorem State.raise_sha512 (e : ErrCode) : (s.raise e).sha512 = s.sha512 := rfl
@[simp] theorem State.raise_blake2s (e : ErrCode) : (s.raise e).blake2s = s.blake2s := rfl
@[simp] theorem State.raise_poly1305 (e : ErrCode) : (s.raise e).poly1305 = s.poly1305 := rfl
@[simp] theorem State.raise_hmac (e : ErrCode) : (s.raise e).hmac = s.hmac := rfl
@[simp] theorem State.raise_phase (e : ErrCode) : (s.raise e).phase = .idle := rfl
@[simp] theorem State.raise_dmem (e : ErrCode) : (s.raise e).dmem = s.dmem := rfl
@[simp] theorem State.raise_host (e : ErrCode) : (s.raise e).host = s.host := rfl
@[simp] theorem State.raise_hostData (e : ErrCode) : (s.raise e).hostData = s.hostData := rfl
@[simp] theorem State.raise_checkFailed (e : ErrCode) : (s.raise e).checkFailed = s.checkFailed := rfl
@[simp] theorem State.raise_draws (e : ErrCode) : (s.raise e).draws = s.draws := rfl

/-! `State.store` -/

@[simp] theorem State.store_params (a : Nat) (v : Bytes) : (s.store a v).params = s.params := rfl
@[simp] theorem State.store_irqEn (a : Nat) (v : Bytes) : (s.store a v).irqEn = s.irqEn := rfl
@[simp] theorem State.store_done (a : Nat) (v : Bytes) : (s.store a v).done = s.done := rfl
@[simp] theorem State.store_err (a : Nat) (v : Bytes) : (s.store a v).err = s.err := rfl
@[simp] theorem State.store_eqFlag (a : Nat) (v : Bytes) : (s.store a v).eqFlag = s.eqFlag := rfl
@[simp] theorem State.store_werr (a : Nat) (v : Bytes) : (s.store a v).werr = s.werr := rfl
@[simp] theorem State.store_errcode (a : Nat) (v : Bytes) : (s.store a v).errcode = s.errcode := rfl
@[simp] theorem State.store_cmd (a : Nat) (v : Bytes) : (s.store a v).cmd = s.cmd := rfl
@[simp] theorem State.store_outLen (a : Nat) (v : Bytes) : (s.store a v).outLen = s.outLen := rfl
@[simp] theorem State.store_ops (a : Nat) (v : Bytes) : (s.store a v).ops = s.ops := rfl
@[simp] theorem State.store_kse (a : Nat) (v : Bytes) : (s.store a v).kse = s.kse := rfl
@[simp] theorem State.store_ksd (a : Nat) (v : Bytes) : (s.store a v).ksd = s.ksd := rfl
@[simp] theorem State.store_sha256 (a : Nat) (v : Bytes) : (s.store a v).sha256 = s.sha256 := rfl
@[simp] theorem State.store_sha512 (a : Nat) (v : Bytes) : (s.store a v).sha512 = s.sha512 := rfl
@[simp] theorem State.store_blake2s (a : Nat) (v : Bytes) : (s.store a v).blake2s = s.blake2s := rfl
@[simp] theorem State.store_poly1305 (a : Nat) (v : Bytes) : (s.store a v).poly1305 = s.poly1305 := rfl
@[simp] theorem State.store_hmac (a : Nat) (v : Bytes) : (s.store a v).hmac = s.hmac := rfl
@[simp] theorem State.store_phase (a : Nat) (v : Bytes) : (s.store a v).phase = s.phase := rfl
@[simp] theorem State.store_dmem (a : Nat) (v : Bytes) : (s.store a v).dmem = Memory.writeBytes s.dmem a v := rfl
@[simp] theorem State.store_host (a : Nat) (v : Bytes) : (s.store a v).host = s.host := rfl
@[simp] theorem State.store_hostData (a : Nat) (v : Bytes) : (s.store a v).hostData = s.hostData := rfl
@[simp] theorem State.store_checkFailed (a : Nat) (v : Bytes) : (s.store a v).checkFailed = s.checkFailed := rfl
@[simp] theorem State.store_draws (a : Nat) (v : Bytes) : (s.store a v).draws = s.draws := rfl

/-! `State.launch` -/

@[simp] theorem State.launch_params (v : Word) (k : Nat) : (s.launch v k).params = s.params := rfl
@[simp] theorem State.launch_irqEn (v : Word) (k : Nat) : (s.launch v k).irqEn = s.irqEn := rfl
@[simp] theorem State.launch_done (v : Word) (k : Nat) : (s.launch v k).done = false := rfl
@[simp] theorem State.launch_err (v : Word) (k : Nat) : (s.launch v k).err = false := rfl
@[simp] theorem State.launch_eqFlag (v : Word) (k : Nat) : (s.launch v k).eqFlag = s.eqFlag := rfl
@[simp] theorem State.launch_werr (v : Word) (k : Nat) : (s.launch v k).werr = s.werr := rfl
@[simp] theorem State.launch_errcode (v : Word) (k : Nat) : (s.launch v k).errcode = s.errcode := rfl
@[simp] theorem State.launch_cmd (v : Word) (k : Nat) : (s.launch v k).cmd = v := rfl
@[simp] theorem State.launch_outLen (v : Word) (k : Nat) : (s.launch v k).outLen = s.outLen := rfl
@[simp] theorem State.launch_ops (v : Word) (k : Nat) : (s.launch v k).ops = s.ops := rfl
@[simp] theorem State.launch_kse (v : Word) (k : Nat) : (s.launch v k).kse = s.kse := rfl
@[simp] theorem State.launch_ksd (v : Word) (k : Nat) : (s.launch v k).ksd = s.ksd := rfl
@[simp] theorem State.launch_sha256 (v : Word) (k : Nat) : (s.launch v k).sha256 = s.sha256 := rfl
@[simp] theorem State.launch_sha512 (v : Word) (k : Nat) : (s.launch v k).sha512 = s.sha512 := rfl
@[simp] theorem State.launch_blake2s (v : Word) (k : Nat) : (s.launch v k).blake2s = s.blake2s := rfl
@[simp] theorem State.launch_poly1305 (v : Word) (k : Nat) : (s.launch v k).poly1305 = s.poly1305 := rfl
@[simp] theorem State.launch_hmac (v : Word) (k : Nat) : (s.launch v k).hmac = s.hmac := rfl
@[simp] theorem State.launch_phase (v : Word) (k : Nat) : (s.launch v k).phase = .busy ⟨v, s.ops⟩ k := rfl
@[simp] theorem State.launch_dmem (v : Word) (k : Nat) : (s.launch v k).dmem = s.dmem := rfl
@[simp] theorem State.launch_host (v : Word) (k : Nat) : (s.launch v k).host = s.host := rfl
@[simp] theorem State.launch_hostData (v : Word) (k : Nat) : (s.launch v k).hostData = s.hostData := rfl
@[simp] theorem State.launch_checkFailed (v : Word) (k : Nat) : (s.launch v k).checkFailed = s.checkFailed := rfl
@[simp] theorem State.launch_draws (v : Word) (k : Nat) : (s.launch v k).draws = s.draws := rfl

/-! `State.accept` -/

@[simp] theorem State.accept_params (v : Word) : (s.accept v).params = s.params := rfl
@[simp] theorem State.accept_irqEn (v : Word) : (s.accept v).irqEn = s.irqEn := rfl
@[simp] theorem State.accept_done (v : Word) : (s.accept v).done = false := rfl
@[simp] theorem State.accept_err (v : Word) : (s.accept v).err = false := rfl
@[simp] theorem State.accept_eqFlag (v : Word) : (s.accept v).eqFlag = s.eqFlag := rfl
@[simp] theorem State.accept_werr (v : Word) : (s.accept v).werr = s.werr := rfl
@[simp] theorem State.accept_errcode (v : Word) : (s.accept v).errcode = s.errcode := rfl
@[simp] theorem State.accept_cmd (v : Word) : (s.accept v).cmd = v := rfl
@[simp] theorem State.accept_outLen (v : Word) : (s.accept v).outLen = s.outLen := rfl
@[simp] theorem State.accept_ops (v : Word) : (s.accept v).ops = s.ops := rfl
@[simp] theorem State.accept_kse (v : Word) : (s.accept v).kse = s.kse := rfl
@[simp] theorem State.accept_ksd (v : Word) : (s.accept v).ksd = s.ksd := rfl
@[simp] theorem State.accept_sha256 (v : Word) : (s.accept v).sha256 = s.sha256 := rfl
@[simp] theorem State.accept_sha512 (v : Word) : (s.accept v).sha512 = s.sha512 := rfl
@[simp] theorem State.accept_blake2s (v : Word) : (s.accept v).blake2s = s.blake2s := rfl
@[simp] theorem State.accept_poly1305 (v : Word) : (s.accept v).poly1305 = s.poly1305 := rfl
@[simp] theorem State.accept_hmac (v : Word) : (s.accept v).hmac = s.hmac := rfl
@[simp] theorem State.accept_phase (v : Word) : (s.accept v).phase = .busy ⟨v, s.ops⟩ (Config.cmdLatency s.draws) := rfl
@[simp] theorem State.accept_dmem (v : Word) : (s.accept v).dmem = s.dmem := rfl
@[simp] theorem State.accept_host (v : Word) : (s.accept v).host = s.host := rfl
@[simp] theorem State.accept_hostData (v : Word) : (s.accept v).hostData = s.hostData := rfl
@[simp] theorem State.accept_checkFailed (v : Word) : (s.accept v).checkFailed = s.checkFailed := rfl
@[simp] theorem State.accept_draws (v : Word) : (s.accept v).draws = s.draws + 1 := rfl

/-! `State.zeroize` -/

@[simp] theorem State.zeroize_params : (s.zeroize).params = s.params := rfl
@[simp] theorem State.zeroize_irqEn : (s.zeroize).irqEn = s.irqEn := rfl
@[simp] theorem State.zeroize_done : (s.zeroize).done = s.done := rfl
@[simp] theorem State.zeroize_err : (s.zeroize).err = s.err := rfl
@[simp] theorem State.zeroize_eqFlag : (s.zeroize).eqFlag = s.eqFlag := rfl
@[simp] theorem State.zeroize_werr : (s.zeroize).werr = s.werr := rfl
@[simp] theorem State.zeroize_errcode : (s.zeroize).errcode = s.errcode := rfl
@[simp] theorem State.zeroize_cmd : (s.zeroize).cmd = s.cmd := rfl
@[simp] theorem State.zeroize_outLen : (s.zeroize).outLen = s.outLen := rfl
@[simp] theorem State.zeroize_ops : (s.zeroize).ops = s.ops := rfl
@[simp] theorem State.zeroize_kse : (s.zeroize).kse = .unloaded := rfl
@[simp] theorem State.zeroize_ksd : (s.zeroize).ksd = .unloaded := rfl
@[simp] theorem State.zeroize_sha256 : (s.zeroize).sha256 = .closed (.zero 32) := rfl
@[simp] theorem State.zeroize_sha512 : (s.zeroize).sha512 = .closed (.zero 64) := rfl
@[simp] theorem State.zeroize_blake2s : (s.zeroize).blake2s = .closed .zero := rfl
@[simp] theorem State.zeroize_poly1305 : (s.zeroize).poly1305 = .closed .zero := rfl
@[simp] theorem State.zeroize_hmac : (s.zeroize).hmac = .closed .zero := rfl
@[simp] theorem State.zeroize_phase : (s.zeroize).phase = s.phase := rfl
@[simp] theorem State.zeroize_dmem : (s.zeroize).dmem = s.dmem := rfl
@[simp] theorem State.zeroize_host : (s.zeroize).host = s.host := rfl
@[simp] theorem State.zeroize_hostData : (s.zeroize).hostData = s.hostData := rfl
@[simp] theorem State.zeroize_checkFailed : (s.zeroize).checkFailed = s.checkFailed := rfl
@[simp] theorem State.zeroize_draws : (s.zeroize).draws = s.draws := rfl

/-! `State.refuseAccess` -/

@[simp] theorem State.refuseAccess_params : (s.refuseAccess).params = s.params := rfl
@[simp] theorem State.refuseAccess_irqEn : (s.refuseAccess).irqEn = s.irqEn := rfl
@[simp] theorem State.refuseAccess_done : (s.refuseAccess).done = s.done := rfl
@[simp] theorem State.refuseAccess_err : (s.refuseAccess).err = s.err := rfl
@[simp] theorem State.refuseAccess_eqFlag : (s.refuseAccess).eqFlag = s.eqFlag := rfl
@[simp] theorem State.refuseAccess_werr : (s.refuseAccess).werr = true := rfl
@[simp] theorem State.refuseAccess_errcode : (s.refuseAccess).errcode = s.errcode := rfl
@[simp] theorem State.refuseAccess_cmd : (s.refuseAccess).cmd = s.cmd := rfl
@[simp] theorem State.refuseAccess_outLen : (s.refuseAccess).outLen = s.outLen := rfl
@[simp] theorem State.refuseAccess_ops : (s.refuseAccess).ops = s.ops := rfl
@[simp] theorem State.refuseAccess_kse : (s.refuseAccess).kse = s.kse := rfl
@[simp] theorem State.refuseAccess_ksd : (s.refuseAccess).ksd = s.ksd := rfl
@[simp] theorem State.refuseAccess_sha256 : (s.refuseAccess).sha256 = s.sha256 := rfl
@[simp] theorem State.refuseAccess_sha512 : (s.refuseAccess).sha512 = s.sha512 := rfl
@[simp] theorem State.refuseAccess_blake2s : (s.refuseAccess).blake2s = s.blake2s := rfl
@[simp] theorem State.refuseAccess_poly1305 : (s.refuseAccess).poly1305 = s.poly1305 := rfl
@[simp] theorem State.refuseAccess_hmac : (s.refuseAccess).hmac = s.hmac := rfl
@[simp] theorem State.refuseAccess_phase : (s.refuseAccess).phase = s.phase := rfl
@[simp] theorem State.refuseAccess_dmem : (s.refuseAccess).dmem = s.dmem := rfl
@[simp] theorem State.refuseAccess_host : (s.refuseAccess).host = s.host := rfl
@[simp] theorem State.refuseAccess_hostData : (s.refuseAccess).hostData = s.hostData := rfl
@[simp] theorem State.refuseAccess_checkFailed : (s.refuseAccess).checkFailed = s.checkFailed := rfl
@[simp] theorem State.refuseAccess_draws : (s.refuseAccess).draws = s.draws := rfl

/-! `State.afterBusyRead` -/

@[simp] theorem State.afterBusyRead_params (w : Width) (off : Nat) : (s.afterBusyRead w off).params = s.params := rfl
@[simp] theorem State.afterBusyRead_irqEn (w : Width) (off : Nat) : (s.afterBusyRead w off).irqEn = s.irqEn := rfl
@[simp] theorem State.afterBusyRead_done (w : Width) (off : Nat) : (s.afterBusyRead w off).done = s.done := rfl
@[simp] theorem State.afterBusyRead_err (w : Width) (off : Nat) : (s.afterBusyRead w off).err = s.err := rfl
@[simp] theorem State.afterBusyRead_eqFlag (w : Width) (off : Nat) : (s.afterBusyRead w off).eqFlag = s.eqFlag := rfl
@[simp] theorem State.afterBusyRead_werr (w : Width) (off : Nat) :
    (s.afterBusyRead w off).werr = (s.werr || !s.dmemAccessOk w off) := rfl
@[simp] theorem State.afterBusyRead_errcode (w : Width) (off : Nat) : (s.afterBusyRead w off).errcode = s.errcode := rfl
@[simp] theorem State.afterBusyRead_cmd (w : Width) (off : Nat) : (s.afterBusyRead w off).cmd = s.cmd := rfl
@[simp] theorem State.afterBusyRead_outLen (w : Width) (off : Nat) : (s.afterBusyRead w off).outLen = s.outLen := rfl
@[simp] theorem State.afterBusyRead_ops (w : Width) (off : Nat) : (s.afterBusyRead w off).ops = s.ops := rfl
@[simp] theorem State.afterBusyRead_kse (w : Width) (off : Nat) : (s.afterBusyRead w off).kse = s.kse := rfl
@[simp] theorem State.afterBusyRead_ksd (w : Width) (off : Nat) : (s.afterBusyRead w off).ksd = s.ksd := rfl
@[simp] theorem State.afterBusyRead_sha256 (w : Width) (off : Nat) : (s.afterBusyRead w off).sha256 = s.sha256 := rfl
@[simp] theorem State.afterBusyRead_sha512 (w : Width) (off : Nat) : (s.afterBusyRead w off).sha512 = s.sha512 := rfl
@[simp] theorem State.afterBusyRead_blake2s (w : Width) (off : Nat) : (s.afterBusyRead w off).blake2s = s.blake2s := rfl
@[simp] theorem State.afterBusyRead_poly1305 (w : Width) (off : Nat) : (s.afterBusyRead w off).poly1305 = s.poly1305 := rfl
@[simp] theorem State.afterBusyRead_hmac (w : Width) (off : Nat) : (s.afterBusyRead w off).hmac = s.hmac := rfl
@[simp] theorem State.afterBusyRead_phase (w : Width) (off : Nat) : (s.afterBusyRead w off).phase = s.phase := rfl
@[simp] theorem State.afterBusyRead_dmem (w : Width) (off : Nat) : (s.afterBusyRead w off).dmem = s.dmem := rfl
@[simp] theorem State.afterBusyRead_host (w : Width) (off : Nat) : (s.afterBusyRead w off).host = s.host := rfl
@[simp] theorem State.afterBusyRead_hostData (w : Width) (off : Nat) : (s.afterBusyRead w off).hostData = s.hostData := rfl
@[simp] theorem State.afterBusyRead_checkFailed (w : Width) (off : Nat) :
    (s.afterBusyRead w off).checkFailed = s.checkFailed := rfl
@[simp] theorem State.afterBusyRead_draws (w : Width) (off : Nat) : (s.afterBusyRead w off).draws = s.draws + 1 := rfl

/-! `State.writeStatus` -/

@[simp] theorem State.writeStatus_params (v : Word) : (s.writeStatus v).params = s.params := rfl
@[simp] theorem State.writeStatus_irqEn (v : Word) : (s.writeStatus v).irqEn = s.irqEn := rfl
@[simp] theorem State.writeStatus_done (v : Word) : (s.writeStatus v).done = (s.done && !v.getLsbD 1) := rfl
@[simp] theorem State.writeStatus_err (v : Word) : (s.writeStatus v).err = (s.err && !v.getLsbD 2) := rfl
@[simp] theorem State.writeStatus_eqFlag (v : Word) : (s.writeStatus v).eqFlag = s.eqFlag := rfl
@[simp] theorem State.writeStatus_werr (v : Word) : (s.writeStatus v).werr = (s.werr && !v.getLsbD 6) := rfl
@[simp] theorem State.writeStatus_errcode (v : Word) : (s.writeStatus v).errcode = s.errcode := rfl
@[simp] theorem State.writeStatus_cmd (v : Word) : (s.writeStatus v).cmd = s.cmd := rfl
@[simp] theorem State.writeStatus_outLen (v : Word) : (s.writeStatus v).outLen = s.outLen := rfl
@[simp] theorem State.writeStatus_ops (v : Word) : (s.writeStatus v).ops = s.ops := rfl
@[simp] theorem State.writeStatus_kse (v : Word) : (s.writeStatus v).kse = s.kse := rfl
@[simp] theorem State.writeStatus_ksd (v : Word) : (s.writeStatus v).ksd = s.ksd := rfl
@[simp] theorem State.writeStatus_sha256 (v : Word) : (s.writeStatus v).sha256 = s.sha256 := rfl
@[simp] theorem State.writeStatus_sha512 (v : Word) : (s.writeStatus v).sha512 = s.sha512 := rfl
@[simp] theorem State.writeStatus_blake2s (v : Word) : (s.writeStatus v).blake2s = s.blake2s := rfl
@[simp] theorem State.writeStatus_poly1305 (v : Word) : (s.writeStatus v).poly1305 = s.poly1305 := rfl
@[simp] theorem State.writeStatus_hmac (v : Word) : (s.writeStatus v).hmac = s.hmac := rfl
@[simp] theorem State.writeStatus_phase (v : Word) : (s.writeStatus v).phase = s.phase := rfl
@[simp] theorem State.writeStatus_dmem (v : Word) : (s.writeStatus v).dmem = s.dmem := rfl
@[simp] theorem State.writeStatus_host (v : Word) : (s.writeStatus v).host = s.host := rfl
@[simp] theorem State.writeStatus_hostData (v : Word) : (s.writeStatus v).hostData = s.hostData := rfl
@[simp] theorem State.writeStatus_checkFailed (v : Word) : (s.writeStatus v).checkFailed = s.checkFailed := rfl
@[simp] theorem State.writeStatus_draws (v : Word) : (s.writeStatus v).draws = s.draws := rfl

/-! `State.softReset` -/

@[simp] theorem State.softReset_params : (s.softReset).params = s.params := rfl
@[simp] theorem State.softReset_irqEn : (s.softReset).irqEn = false := rfl
@[simp] theorem State.softReset_done : (s.softReset).done = false := rfl
@[simp] theorem State.softReset_err : (s.softReset).err = false := rfl
@[simp] theorem State.softReset_eqFlag : (s.softReset).eqFlag = false := rfl
@[simp] theorem State.softReset_werr : (s.softReset).werr = false := rfl
@[simp] theorem State.softReset_errcode : (s.softReset).errcode = .success := rfl
@[simp] theorem State.softReset_cmd : (s.softReset).cmd = 0 := rfl
@[simp] theorem State.softReset_outLen : (s.softReset).outLen = 0 := rfl
@[simp] theorem State.softReset_ops : (s.softReset).ops = .zero := rfl
@[simp] theorem State.softReset_kse : (s.softReset).kse = .unloaded := rfl
@[simp] theorem State.softReset_ksd : (s.softReset).ksd = .unloaded := rfl
@[simp] theorem State.softReset_sha256 : (s.softReset).sha256 = .closed (.zero 32) := rfl
@[simp] theorem State.softReset_sha512 : (s.softReset).sha512 = .closed (.zero 64) := rfl
@[simp] theorem State.softReset_blake2s : (s.softReset).blake2s = .closed .zero := rfl
@[simp] theorem State.softReset_poly1305 : (s.softReset).poly1305 = .closed .zero := rfl
@[simp] theorem State.softReset_hmac : (s.softReset).hmac = .closed .zero := rfl
@[simp] theorem State.softReset_phase : (s.softReset).phase = .idle := rfl
@[simp] theorem State.softReset_dmem : (s.softReset).dmem = s.dmem := rfl
@[simp] theorem State.softReset_host : (s.softReset).host = s.host := rfl
@[simp] theorem State.softReset_hostData : (s.softReset).hostData = s.hostData := rfl
@[simp] theorem State.softReset_checkFailed : (s.softReset).checkFailed = s.checkFailed := rfl
@[simp] theorem State.softReset_draws : (s.softReset).draws = s.draws := rfl

/-! `State.output` -/

@[simp] theorem State.output_params (o : Bytes) : (s.output o).params = s.params := rfl
@[simp] theorem State.output_irqEn (o : Bytes) : (s.output o).irqEn = s.irqEn := rfl
@[simp] theorem State.output_done (o : Bytes) : (s.output o).done = true := rfl
@[simp] theorem State.output_err (o : Bytes) : (s.output o).err = false := rfl
@[simp] theorem State.output_eqFlag (o : Bytes) : (s.output o).eqFlag = s.eqFlag := rfl
@[simp] theorem State.output_werr (o : Bytes) : (s.output o).werr = s.werr := rfl
@[simp] theorem State.output_errcode (o : Bytes) : (s.output o).errcode = .success := rfl
@[simp] theorem State.output_cmd (o : Bytes) : (s.output o).cmd = s.cmd := rfl
@[simp] theorem State.output_outLen (o : Bytes) : (s.output o).outLen = BitVec.ofNat 32 o.length := rfl
@[simp] theorem State.output_ops (o : Bytes) : (s.output o).ops = s.ops := rfl
@[simp] theorem State.output_kse (o : Bytes) : (s.output o).kse = s.kse := rfl
@[simp] theorem State.output_ksd (o : Bytes) : (s.output o).ksd = s.ksd := rfl
@[simp] theorem State.output_sha256 (o : Bytes) : (s.output o).sha256 = s.sha256 := rfl
@[simp] theorem State.output_sha512 (o : Bytes) : (s.output o).sha512 = s.sha512 := rfl
@[simp] theorem State.output_blake2s (o : Bytes) : (s.output o).blake2s = s.blake2s := rfl
@[simp] theorem State.output_poly1305 (o : Bytes) : (s.output o).poly1305 = s.poly1305 := rfl
@[simp] theorem State.output_hmac (o : Bytes) : (s.output o).hmac = s.hmac := rfl
@[simp] theorem State.output_phase (o : Bytes) : (s.output o).phase = .idle := rfl
@[simp] theorem State.output_dmem (o : Bytes) : (s.output o).dmem = Memory.writeBytes s.dmem s.dstRegion.addr o := rfl
@[simp] theorem State.output_host (o : Bytes) : (s.output o).host = s.host := rfl
@[simp] theorem State.output_hostData (o : Bytes) : (s.output o).hostData = s.hostData := rfl
@[simp] theorem State.output_checkFailed (o : Bytes) : (s.output o).checkFailed = s.checkFailed := rfl
@[simp] theorem State.output_draws (o : Bytes) : (s.output o).draws = s.draws := rfl

/-! The snapshot and the regions, which no write to internal state or DMEM touches. -/

@[simp] theorem State.store_snap (a : Nat) (v : Bytes) : (s.store a v).snap = s.snap := rfl
@[simp] theorem State.store_dstRegion (a : Nat) (v : Bytes) : (s.store a v).dstRegion = s.dstRegion := rfl
@[simp] theorem State.store_tagRegion (a : Nat) (v : Bytes) : (s.store a v).tagRegion = s.tagRegion := rfl
@[simp] theorem State.finish_busy (n : Nat) : (s.finish n).busy = false := rfl
@[simp] theorem State.raise_busy (e : ErrCode) : (s.raise e).busy = false := rfl
@[simp] theorem State.launch_busy (v : Word) (k : Nat) : (s.launch v k).busy = true := rfl
@[simp] theorem State.accept_busy (v : Word) : (s.accept v).busy = true := rfl
@[simp] theorem State.softReset_busy : s.softReset.busy = false := rfl

/-- An accepted command reads the operand registers as they were at its CMD write (R59). -/
@[simp] theorem State.launch_snap (v : Word) (k : Nat) : (s.launch v k).snap = s.ops := rfl

theorem State.busy_iff : s.busy = true ↔ ∃ sn k, s.phase = .busy sn k := by
  cases h : s.phase <;> simp [State.busy, h]

theorem State.not_busy_iff : s.busy = false ↔ s.phase = .idle := by
  cases h : s.phase <;> simp [State.busy, h]

end Sys2Proof.Machine
end

