-- ==== Sys2Proof/Laws/Checks.lean ====
section
/-! SUPPORT. The laws of the shared operations of a command: which error the list of checks reports, when a region
check passes, what `State.raise`, `State.finish`, `State.output` and `State.seal` leave. -/

namespace Sys2Proof.Machine

/-! ## The list of checks -/

@[simp] theorem firstError_nil : firstError [] = none := rfl

/-- The first check decides when it applies, else the rest does (R474). -/
@[simp] theorem firstError_cons (b : Bool) (e : ErrCode) (cs : List Check) :
    firstError ((b, e) :: cs) = if b = true then some e else firstError cs := by
  cases b <;> rfl

theorem firstError_append (cs ds : List Check) :
    firstError (cs ++ ds) = (firstError cs).or (firstError ds) := by
  induction cs with
  | nil => simp
  | cons c cs ih =>
    obtain ⟨b, e⟩ := c
    cases b <;> simp [ih]

/-- No check of the list applies. -/
theorem firstError_eq_none (cs : List Check) : firstError cs = none ↔ ∀ c ∈ cs, c.1 = false := by
  induction cs with
  | nil => simp
  | cons c cs ih =>
    obtain ⟨b, e⟩ := c
    cases b <;> simp [ih]

/-- A reported error is one of the list's. -/
theorem firstError_mem (cs : List Check) (e : ErrCode) (h : firstError cs = some e) : (true, e) ∈ cs := by
  induction cs with
  | nil => simp at h
  | cons c cs ih =>
    obtain ⟨b, f⟩ := c
    cases b with
    | false => exact List.mem_cons_of_mem _ (ih (by simpa using h))
    | true => simp_all

theorem addressCheck_eq (s : State) (rs : List Region) :
    s.addressCheck rs = (rs.any (fun r => !r.fits s.params.dmemSize), .addressError) := rfl

/-- The region check passes exactly when every region fits (R105). -/
theorem any_not_fits (s : State) (rs : List Region) :
    (rs.any (fun r => !r.fits s.params.dmemSize)) = false ↔ s.allFit rs := by
  simp [State.allFit, Region.fits]

theorem addressCheck_pass (s : State) (rs : List Region) (h : s.allFit rs) :
    s.addressCheck rs = (false, .addressError) := by
  rw [addressCheck_eq, (any_not_fits s rs).mpr h]

theorem addressCheck_fail (s : State) (rs : List Region) (h : ¬ s.allFit rs) :
    s.addressCheck rs = (true, .addressError) := by
  rw [addressCheck_eq]
  cases hb : rs.any (fun r => !r.fits s.params.dmemSize) with
  | true => rfl
  | false => exact absurd ((any_not_fits s rs).mp hb) h

theorem allFit_cons (s : State) (r : Region) (rs : List Region) :
    s.allFit (r :: rs) ↔ r.addr + r.len ≤ s.params.dmemSize ∧ s.allFit rs := by
  simp [State.allFit]

@[simp] theorem allFit_nil (s : State) : s.allFit [] := by simp [State.allFit]

/-! Each check, when it passes and when it does not. -/

theorem capacityCheck_pass (s : State) (n : Nat) (h : n ≤ s.snap.dstLen.toNat) :
    s.capacityCheck n = (false, .bufferTooShort) := by
  simp [State.capacityCheck, h]

theorem capacityCheck_fail (s : State) (n : Nat) (h : s.snap.dstLen.toNat < n) :
    s.capacityCheck n = (true, .bufferTooShort) := by
  simp [State.capacityCheck, h]

theorem capacityCheck_fst (s : State) (n : Nat) : (s.capacityCheck n).1 = false ↔ n ≤ s.snap.dstLen.toNat := by
  simp [State.capacityCheck]

theorem aadCheck_pass (s : State) (h : s.snap.aadLen = 0) : s.aadCheck = (false, .unsupportedOperation) := by
  simp [State.aadCheck, h]

theorem keyLenCheck_pass (s : State) (lens : List Nat) (h : s.snap.keyLen.toNat ∈ lens) :
    s.keyLenCheck lens = (false, .invalidKeyLength) := by
  simp [State.keyLenCheck, h]

theorem keyLenCheck_fst (s : State) (lens : List Nat) :
    (s.keyLenCheck lens).1 = false ↔ s.snap.keyLen.toNat ∈ lens := by
  simp [State.keyLenCheck]

theorem nonceLenCheck_pass (s : State) (lens : List Nat) (h : s.snap.nonceLen.toNat ∈ lens) :
    s.nonceLenCheck lens = (false, .invalidNonceLength) := by
  simp [State.nonceLenCheck, h]

theorem nonceLenCheck_fst (s : State) (lens : List Nat) :
    (s.nonceLenCheck lens).1 = false ↔ s.snap.nonceLen.toNat ∈ lens := by
  simp [State.nonceLenCheck]

theorem zeroOffsetCheck_pass (s : State) (h : s.ksi = 0) : s.zeroOffsetCheck = (false, .invalidOffset) := by
  simp [State.zeroOffsetCheck, h]

theorem addressCheck_fst (s : State) (rs : List Region) : (s.addressCheck rs).1 = false ↔ s.allFit rs :=
  any_not_fits s rs

/-! ## Completions -/

theorem raise_fails (s : State) (e : ErrCode) : Fails s e (s.raise e) := rfl

theorem finish_succeeds (s : State) (n : Nat) : Succeeds s n (s.finish n) := rfl

/-- Writing a byte string to a canonical memory. -/
theorem wrote_writeBytes {m : Memory} (h : Memory.wfFrom 0 m = true) (a : Nat) (v : Bytes) :
    Wrote m a v (Memory.writeBytes m a v) := fun c => Memory.read_writeBytes h a v c

theorem wfFrom_of_wf {size : Nat} {m : Memory} (h : Memory.wf size m = true) : Memory.wfFrom 0 m = true := by
  simp only [Memory.wf, Bool.and_eq_true] at h
  exact h.1

/-- Success with one output region (R471, R111). -/
theorem output_outputs (w : State) (out : Bytes) (h : Memory.wf w.params.dmemSize w.dmem = true) :
    Outputs w out (w.output out) :=
  ⟨wrote_writeBytes (wfFrom_of_wf h) _ _, rfl⟩

/-- An output inside DMEM keeps the canonical form. -/
theorem output_wf (w : State) (out : Bytes) (h : Memory.wf w.params.dmemSize w.dmem = true)
    (hfit : w.dstRegion.addr + out.length ≤ w.params.dmemSize) :
    Memory.wf (w.output out).params.dmemSize (w.output out).dmem = true :=
  Memory.wf_writeBytes h hfit

/-- A region's bytes are as many as its length says. -/
@[simp] theorem length_input (s : State) (r : Region) : (s.input r).length = r.len := by
  simp [State.input]

end Sys2Proof.Machine
end

