-- ==== Sys2Proof/Laws/Sinks.lean ====
section
/-! SUPPORT. The laws of the sinks: adding twice is adding the concatenation, for every kind of context. -/

namespace Sys2Proof.Machine

/-- Folding over whole pieces, then over the whole pieces of what is left and what follows, is folding over all of
them. -/
theorem foldl_pieces_append {α : Type} (n : Nat) (f : α → Bytes → α) (x : α) (b d : Bytes) (j : Nat)
    (hj : n * j ≤ b.length) (k : Nat) :
    (pieces n k (b.drop (n * j) ++ d)).foldl f ((pieces n j b).foldl f x) = (pieces n (j + k) (b ++ d)).foldl f x := by
  rw [pieces_add, List.foldl_append, pieces_append n j b d hj, List.drop_append_of_le_length hj]

/-- Splitting a byte count at a multiple of the block. -/
theorem full_add (n a b : Nat) (hn : 0 < n) :
    a / n + (a - n * (a / n) + b) / n = (a + b) / n := by
  have h := Nat.div_add_mod a n
  have : (a + b) / n = (n * (a / n) + (a - n * (a / n) + b)) / n := by
    congr 1
    omega
  rw [this, Nat.mul_add_div hn]

/-- ADD d then ADD e is ADD (d ‖ e) (R395, R409). -/
theorem sha2Add_add {w : Nat} (blk : Nat) (hb : 0 < blk) (comp : Hash8 w → Bytes → Hash8 w) (c : Sha2Ctx w)
    (d e : Bytes) : sha2Add blk comp (sha2Add blk comp c d) e = sha2Add blk comp c (d ++ e) := by
  have hle : blk * ((c.buf ++ d).length / blk) ≤ (c.buf ++ d).length := Nat.mul_div_le _ _
  have hf := full_add blk (c.buf ++ d).length e.length hb
  have h1 : ((c.buf ++ d).drop (blk * ((c.buf ++ d).length / blk)) ++ e).length / blk =
      ((c.buf ++ d).length - blk * ((c.buf ++ d).length / blk) + e.length) / blk := by
    rw [List.length_append, List.length_drop]
  simp only [sha2Add, Sha2Ctx.mk.injEq]
  refine ⟨?_, ?_, ?_⟩
  · rw [h1, foldl_pieces_append blk comp c.h (c.buf ++ d) e _ hle, hf]
    simp [List.append_assoc, Nat.add_assoc]
  · rw [h1, ← List.drop_append_of_le_length hle, List.drop_drop, ← Nat.mul_add, hf]
    simp [List.append_assoc, Nat.add_assoc]
  · simp
    omega

/-- POLY1305_ADD twice is one ADD (R354). -/
theorem polyAdd_add (c : Poly1305Ctx) (d e : Bytes) : polyAdd (polyAdd c d) e = polyAdd c (d ++ e) := by
  have hle : 16 * ((c.buf ++ d).length / 16) ≤ (c.buf ++ d).length := Nat.mul_div_le _ _
  have hf := full_add 16 (c.buf ++ d).length e.length (by omega)
  have h1 : ((c.buf ++ d).drop (16 * ((c.buf ++ d).length / 16)) ++ e).length / 16 =
      ((c.buf ++ d).length - 16 * ((c.buf ++ d).length / 16) + e.length) / 16 := by
    rw [List.length_append, List.length_drop]
  simp only [polyAdd, Poly1305Ctx.mk.injEq, true_and]
  refine ⟨?_, ?_⟩
  · rw [h1, foldl_pieces_append 16 (polyStep c.r) c.acc (c.buf ++ d) e _ hle, hf]
    simp [List.append_assoc, Nat.add_assoc]
  · rw [h1, ← List.drop_append_of_le_length hle, List.drop_drop, ← Nat.mul_add, hf]
    simp [List.append_assoc, Nat.add_assoc]

/-- As `full_add`, where a last full block is held back (R420). -/
theorem blakeFull_add (a b : Nat) : blakeFull a + blakeFull (a - 64 * blakeFull a + b) = blakeFull (a + b) := by
  unfold blakeFull
  omega

theorem blakeFull_le (a : Nat) : 64 * blakeFull a ≤ a := by
  unfold blakeFull
  omega

/-- BLAKE2S_ADD twice is one ADD (R420). -/
theorem blake2sAdd_add (c : Blake2sCtx) (d e : Bytes) : blake2sAdd (blake2sAdd c d) e = blake2sAdd c (d ++ e) := by
  have hle : 64 * blakeFull (c.buf ++ d).length ≤ (c.buf ++ d).length := blakeFull_le _
  have hf := blakeFull_add (c.buf ++ d).length e.length
  have h1 : blakeFull ((c.buf ++ d).drop (64 * blakeFull (c.buf ++ d).length) ++ e).length =
      blakeFull ((c.buf ++ d).length - 64 * blakeFull (c.buf ++ d).length + e.length) := by
    rw [List.length_append, List.length_drop]
  have h2 : (pieces 64 (blakeFull (c.buf ++ (d ++ e)).length) (c.buf ++ (d ++ e))).foldl blakeBlock (c.h, c.t) =
      (pieces 64 (blakeFull ((c.buf ++ d).drop (64 * blakeFull (c.buf ++ d).length) ++ e).length)
        ((c.buf ++ d).drop (64 * blakeFull (c.buf ++ d).length) ++ e)).foldl blakeBlock
        ((pieces 64 (blakeFull (c.buf ++ d).length) (c.buf ++ d)).foldl blakeBlock (c.h, c.t)) := by
    rw [h1, foldl_pieces_append 64 blakeBlock (c.h, c.t) (c.buf ++ d) e _ hle, hf]
    simp [List.append_assoc, Nat.add_assoc]
  simp only [blake2sAdd]
  rw [h2]
  simp only [Prod.eta, Blake2sCtx.mk.injEq, true_and, and_true]
  rw [h1, ← List.drop_append_of_le_length hle, List.drop_drop, ← Nat.mul_add, hf]
  simp [List.append_assoc, Nat.add_assoc]

/-- `HAdd_h` twice is one `HAdd_h` (R421, R442). -/
theorem HashCtx.add_add (c : HashCtx) (d e : Bytes) : (c.add d).add e = c.add (d ++ e) := by
  cases c with
  | sha256 x => exact congrArg HashCtx.sha256 (sha2Add_add 64 (by omega) comp256 x d e)
  | sha512 x => exact congrArg HashCtx.sha512 (sha2Add_add 128 (by omega) comp512 x d e)
  | blake2s x => exact congrArg HashCtx.blake2s (blake2sAdd_add x d e)

/-- Cutting all of a string into chunks is cutting its whole pieces, then the rest. -/
theorem chunks_eq (n : Nat) (hn : 0 < n) (b : Bytes) :
    chunks n b = pieces n (b.length / n) b ++
      (if b.length % n = 0 then [] else [b.drop (n * (b.length / n))]) := by
  have hdm := Nat.div_add_mod b.length n
  have hlt := Nat.mod_lt b.length hn
  have hcut : ∀ q r, n * q + r = b.length → 0 < r → r ≤ n → ceilDiv b.length n = q + 1 := by
    intro q r hq hr hrn
    unfold ceilDiv
    rw [← hq, show n * q + r + n - 1 = n * (q + 1) + (r - 1) by rw [Nat.mul_succ]; omega, Nat.mul_add_div hn,
      Nat.div_eq_of_lt (by omega)]
  unfold chunks
  by_cases h0 : b.length % n = 0
  · rw [if_pos h0, List.append_nil]
    congr 1
    unfold ceilDiv
    rw [h0, Nat.add_zero] at hdm
    generalize b.length / n = q at hdm ⊢
    rw [← hdm, show n * q + n - 1 = n * q + (n - 1) by omega, Nat.mul_add_div hn, Nat.div_eq_of_lt (by omega)]
    rfl
  · rw [if_neg h0, hcut _ _ hdm (by omega) (by omega), pieces_add]
    congr 1
    simp only [pieces]
    rw [List.take_of_length_le]
    rw [List.length_drop]
    generalize n * (b.length / n) = x at hdm
    omega

/-- Whole blocks in front are cut first. -/
theorem chunks_append_whole (n : Nat) (hn : 0 < n) (k : Nat) (b d : Bytes) (h : b.length = n * k) :
    chunks n (b ++ d) = pieces n k b ++ chunks n d := by
  unfold chunks
  have : ceilDiv (b ++ d).length n = k + ceilDiv d.length n := by
    unfold ceilDiv
    rw [List.length_append, h, show n * k + d.length + n - 1 = n * k + (d.length + n - 1) by omega, Nat.mul_add_div hn]
  rw [this, pieces_add, pieces_append n k b d (by omega), ← h, List.drop_left]

end Sys2Proof.Machine
end

