-- ==== Sys2Proof/Laws/ByteStrings.lean ====
section
/-! SUPPORT. Byte strings byte by byte: what byte j of an exclusive or, of a run of equal blocks and of a keystream is,
and what the constant-time comparison decides. -/

namespace Sys2Proof.Machine

/-- Two byte strings of one length with the same bytes are equal. -/
theorem bytes_ext (a b : Bytes) (hl : a.length = b.length) (h : ∀ j, j < a.length → a.getD j 0 = b.getD j 0) :
    a = b := by
  apply List.ext_getElem hl
  intro i h1 h2
  have hi := h i h1
  rwa [List.getD_eq_getElem _ _ h1, List.getD_eq_getElem _ _ h2] at hi

/-- Byte j of an exclusive or (R10). -/
theorem getD_xorBytes (a b : Bytes) (h : a.length ≤ b.length) (j : Nat) (hj : j < a.length) :
    (xorBytes a b).getD j 0 = a.getD j 0 ^^^ b.getD j 0 := by
  have hb : j < b.length := by omega
  simp [xorBytes, List.getD, hj, hb]

/-- Byte i of a run of blocks of n bytes is byte `i mod n` of block `i div n`. -/
theorem getD_flatMap {α : Type} (l : List α) (f : α → Bytes) (n : Nat) (hn : 0 < n)
    (h : ∀ x ∈ l, (f x).length = n) (d : α) (i : Nat) (hi : i < n * l.length) :
    (l.flatMap f).getD i 0 = (f (l.getD (i / n) d)).getD (i % n) 0 := by
  induction l generalizing i with
  | nil => simp at hi
  | cons x l ih =>
    have hx := h x (by simp)
    rw [List.flatMap_cons]
    by_cases hlt : i < n
    · have e1 : i / n = 0 := Nat.div_eq_of_lt hlt
      have e2 : i % n = i := Nat.mod_eq_of_lt hlt
      rw [e1, e2, List.getD_append _ _ _ _ (by omega)]
      rfl
    · rw [List.getD_append_right _ _ _ _ (by omega), hx, ih (fun y hy => h y (by simp [hy])) (i - n)
        (by rw [List.length_cons, Nat.mul_succ] at hi; omega)]
      obtain ⟨k, rfl⟩ : ∃ k, i = k + n := ⟨i - n, by omega⟩
      rw [Nat.add_sub_cancel, Nat.add_mod_right, Nat.add_div_right _ hn]
      rfl

/-- Byte j of the keystream from offset o is `KS(k, n, o + j)` (R315). -/
theorem getD_chachaStream (k n : Bytes) (o len j : Nat) (hj : j < len) :
    (chachaStream k n o len).getD j 0 =
      (chachaBlock k (BitVec.ofNat 32 ((o + j) / 64)) n).getD ((o + j) % 64) 0 := by
  unfold chachaStream
  have e : ∀ (l : Bytes), j < len → ((l.drop (o % 64)).take len).getD j 0 = l.getD (o % 64 + j) 0 := by
    intro l h
    simp [List.getD, h, List.getElem?_drop]
  rw [e _ hj]
  have hc := ceilDiv_mul_ge (o % 64 + len) 64 (by omega)
  rw [getD_flatMap _ _ 64 (by omega) (by simp) 0 _ (by simp; omega)]
  have hlt : (o % 64 + j) / 64 < ceilDiv (o % 64 + len) 64 := by
    rw [Nat.div_lt_iff_lt_mul (by omega)]; omega
  have e2 : (List.range' (o / 64) (ceilDiv (o % 64 + len) 64)).getD ((o % 64 + j) / 64) 0 = (o + j) / 64 := by
    rw [List.getD_eq_getElem _ _ (by simpa using hlt)]
    simp only [List.getElem_range']
    omega
  rw [e2]
  congr 1
  omega

/-- A fold of or's is 0 when everything in it is. -/
theorem foldl_or_eq_zero (l : Bytes) (x : Byte) : (l.foldl (fun d y => d ||| y) x = 0) ↔ x = 0 ∧ ∀ y ∈ l, y = 0 := by
  induction l generalizing x with
  | nil => simp
  | cons y l ih =>
    rw [List.foldl_cons, ih]
    have hxy : x ||| y = 0 ↔ x = 0 ∧ y = 0 := BitVec.or_eq_zero_iff
    simp only [hxy, List.mem_cons, forall_eq_or_imp, and_assoc]

/-- The constant-time comparison decides equality (R186). -/
theorem ctEq_iff (a b : Bytes) : ctEq a b = true ↔ a = b := by
  unfold ctEq
  rw [Bool.and_eq_true, beq_iff_eq, decide_eq_true_eq, foldl_or_eq_zero]
  constructor
  · rintro ⟨hl, -, h⟩
    apply bytes_ext _ _ hl
    intro j hj
    have hx : (xorBytes a b).getD j 0 = 0 := by
      rw [List.getD_eq_getElem _ _ (by simp; omega)]
      exact h _ (List.getElem_mem _)
    rw [getD_xorBytes _ _ (by omega) _ hj] at hx
    exact BitVec.xor_eq_zero_iff.mp hx
  · rintro rfl
    refine ⟨rfl, rfl, ?_⟩
    intro y hy
    rw [List.mem_iff_getElem] at hy
    obtain ⟨i, hi, rfl⟩ := hy
    simp [xorBytes]

/-- Adding the pieces of a message to a hash context one by one adds the whole (R421). -/
theorem HashCtx.foldl_add (c : HashCtx) (hc : c.add [] = c) (ds : List Bytes) :
    ds.foldl HashCtx.add c = c.add ds.flatten := by
  induction ds generalizing c with
  | nil => simp [hc]
  | cons d ds ih =>
    rw [List.foldl_cons, ih _ (by rw [HashCtx.add_add, List.append_nil]), HashCtx.add_add, List.flatten_cons]

end Sys2Proof.Machine
end

