-- ==== Sys2Proof/Laws/Commands.lean ====
section
/-! SUPPORT. Every command as its checks and its work: `exec` reports the first error of a list of checks, or does the
work. A proof over all commands cites `exec_eq` and never unfolds an arm. -/

namespace Sys2Proof.Machine

/-- The checks a command makes before any work, in the order it makes them. -/
def State.checks (s : State) : Instr → List Check
  | .nop | .zeroize | .sha256Init | .sha512Init | .blake2sInit => []
  | .ctCompare => [s.addressCheck [s.srcRegion, s.cmpRegion]]
  | .aesKeyexpEnc | .aesKeyexpDec => s.keyExpChecks
  | .aesEncBlock => s.blockChecks s.kse
  | .aesDecBlock => s.blockChecks s.ksd
  | .aesCbcEnc => s.cbcChecks ++ [s.capacityCheck s.cbcOutLen]
  | .aesCbcDec => s.cbcChecks ++ [s.raggedCheck]
  | .aesCtrEnc | .aesCtrDec => s.ctrChecks
  | .nonceInc => s.nonceIncChecks
  | .chacha20Block => s.keyedBlockChecks 12 64
  | .hchacha20 => s.keyedBlockChecks 16 32
  | .chacha20Enc | .chacha20Dec => s.streamChecks 12
  | .xchacha20Enc | .xchacha20Dec => s.streamChecks 24
  | .poly1305Init => [s.addressCheck [s.keyRegion], s.keyLenCheck [32]]
  | .poly1305Add => [s.addressCheck [s.srcRegion], (!s.poly1305.isOpen, .sinkNotOpen)]
  | .poly1305Close => [s.addressCheck [s.dstRegion], (!s.poly1305.isOpen, .sinkNotOpen), s.capacityCheck 16]
  | .c20p1305Enc | .c20p1305Dec => s.aeadChecks 12
  | .xc20p1305Enc | .xc20p1305Dec => s.aeadChecks 24
  | .sha256Add => s.addChecks s.sha256.isOpen (sha256TooLong s.sha256.ctx s.snap.srcLen.toNat)
  | .sha512Add => s.addChecks s.sha512.isOpen (sha512TooLong s.sha512.ctx s.snap.srcLen.toNat)
  | .blake2sAdd => s.addChecks s.blake2s.isOpen (blake2sTooLong s.blake2s.ctx s.snap.srcLen.toNat)
  | .hmacAdd => s.addChecks s.hmac.isOpen (s.hmac.ctx.inner.tooLong s.snap.srcLen.toNat)
  | .sha256Close => s.closeChecks s.sha256.isOpen 32
  | .sha512Close => s.closeChecks s.sha512.isOpen 64
  | .blake2sClose => s.closeChecks s.blake2s.isOpen 32
  | .hmacClose => s.closeChecks s.hmac.isOpen s.hmac.ctx.inner.alg.digestLen
  | .hmacInitSha256 | .hmacInitSha512 | .hmacInitBlake2s => [s.addressCheck [s.keyRegion]]
  | .pbkdf2Sha256 | .pbkdf2Sha512 | .pbkdf2Blake2s => s.pbkdf2Checks

/-- The state after AES_CBC_DEC has passed its checks (R281). -/
def State.cbcDecWork (s : State) : State :=
  match cbcDec (s.input s.keyRegion) (s.input s.nonceRegion) (s.input s.srcRegion) with
  | none => s.raise .invalidPadding
  | some p => if s.snap.dstLen.toNat < p.length then s.raise .bufferTooShort else s.output p

/-- The state after HMAC_INIT has passed its checks (R445). -/
def State.hmacInitWork (s : State) (h : HashAlg) : State :=
  { s with hmac := ⟨true, hmacInit h (s.input s.keyRegion)⟩ }.finish 0

/-- The state after PBKDF2 has passed its checks (R450). -/
def State.pbkdf2Work (s : State) (h : HashAlg) : State :=
  s.output (pbkdf2 h (s.input s.keyRegion) (s.input s.nonceRegion) s.snap.iter.toNat s.snap.arg.toNat)

/-- The state after a command whose checks have passed. -/
def State.work (s : State) : Instr → State
  | .nop => s.finish 0
  | .zeroize => s.zeroize.finish 0
  | .ctCompare => { s with eqFlag := ctEq (s.input s.srcRegion) (s.input s.cmpRegion) }.finish 0
  | .aesKeyexpEnc =>
    { s with kse := .load (roundsOf (s.input s.keyRegion)) (keyExpansion (s.input s.keyRegion)) }.finish 0
  | .aesKeyexpDec =>
    { s with ksd := .load (roundsOf (s.input s.keyRegion)) (decSchedule (s.input s.keyRegion)) }.finish 0
  | .aesEncBlock => s.output (aesEnc s.kse.toList s.kse.nr.nr s.blockIn s.blockOutLen)
  | .aesDecBlock => s.output (aesDec s.ksd.toList s.ksd.nr.nr s.blockIn s.blockOutLen)
  | .aesCbcEnc => s.output (cbcEnc (s.input s.keyRegion) (s.input s.nonceRegion) (s.input s.srcRegion))
  | .aesCbcDec => s.cbcDecWork
  | .aesCtrEnc | .aesCtrDec => s.output s.ctrOut
  | .nonceInc => s.output (nonceInc (s.input s.nonceRegion) s.snap.arg.toNat)
  | .chacha20Block => s.output (chachaBlock (s.input s.keyRegion) s.snap.arg (s.input s.nonceRegion))
  | .hchacha20 => s.output (hchacha (s.input s.keyRegion) (s.input s.nonceRegion))
  | .chacha20Enc | .chacha20Dec => s.output s.chachaOut
  | .xchacha20Enc | .xchacha20Dec => s.output s.xchachaOut
  | .poly1305Init => { s with poly1305 := ⟨true, polyInit (s.input s.keyRegion)⟩ }.finish 0
  | .poly1305Add => { s with poly1305 := ⟨true, polyAdd s.poly1305.ctx (s.input s.srcRegion)⟩ }.finish 0
  | .poly1305Close => { s with poly1305 := .closed .zero }.output (polyFinal s.poly1305.ctx)
  | .c20p1305Enc => s.aeadEncrypt (s.input s.keyRegion) (s.input s.nonceRegion)
  | .c20p1305Dec => s.aeadDecrypt (s.input s.keyRegion) (s.input s.nonceRegion)
  | .xc20p1305Enc =>
    s.aeadEncrypt (xSubkey (s.input s.keyRegion) (s.input s.nonceRegion)) (xNonce (s.input s.nonceRegion))
  | .xc20p1305Dec =>
    s.aeadDecrypt (xSubkey (s.input s.keyRegion) (s.input s.nonceRegion)) (xNonce (s.input s.nonceRegion))
  | .sha256Init => { s with sha256 := ⟨true, Sys2Proof.Machine.sha256Init⟩ }.finish 0
  | .sha256Add => { s with sha256 := ⟨true, Sys2Proof.Machine.sha256Add s.sha256.ctx (s.input s.srcRegion)⟩ }.finish 0
  | .sha256Close => { s with sha256 := .closed (.zero 32) }.output (sha256Final s.sha256.ctx)
  | .sha512Init => { s with sha512 := ⟨true, Sys2Proof.Machine.sha512Init⟩ }.finish 0
  | .sha512Add => { s with sha512 := ⟨true, Sys2Proof.Machine.sha512Add s.sha512.ctx (s.input s.srcRegion)⟩ }.finish 0
  | .sha512Close => { s with sha512 := .closed (.zero 64) }.output (sha512Final s.sha512.ctx)
  | .blake2sInit => { s with blake2s := ⟨true, Sys2Proof.Machine.blake2sInit⟩ }.finish 0
  | .blake2sAdd =>
    { s with blake2s := ⟨true, Sys2Proof.Machine.blake2sAdd s.blake2s.ctx (s.input s.srcRegion)⟩ }.finish 0
  | .blake2sClose => { s with blake2s := .closed .zero }.output (blake2sFinal s.blake2s.ctx)
  | .hmacInitSha256 => s.hmacInitWork .sha256
  | .hmacInitSha512 => s.hmacInitWork .sha512
  | .hmacInitBlake2s => s.hmacInitWork .blake2s
  | .hmacAdd =>
    { s with hmac := ⟨true, { s.hmac.ctx with inner := s.hmac.ctx.inner.add (s.input s.srcRegion) }⟩ }.finish 0
  | .hmacClose => { s with hmac := .closed .zero }.output (hmacFinal s.hmac.ctx)
  | .pbkdf2Sha256 => s.pbkdf2Work .sha256
  | .pbkdf2Sha512 => s.pbkdf2Work .sha512
  | .pbkdf2Blake2s => s.pbkdf2Work .blake2s

/-- The state after a command: the error completion of the first check that applies (R474), or its work. -/
def State.outcome (s : State) (i : Instr) : State :=
  match firstError (s.checks i) with
  | some e => s.raise e
  | none => s.work i

/-- Every command answers the next state `outcome` gives (R513). -/
theorem exec_eq (i : Instr) (s : State) : exec i s = .next (s.outcome i) := by
  unfold State.outcome
  cases i
  case aesCbcDec =>
    show execAesCbcDec s = _
    simp only [execAesCbcDec, State.checks, State.work, State.cbcDecWork]
    cases firstError (s.cbcChecks ++ [s.raggedCheck]) with
    | some e => rfl
    | none =>
      cases cbcDec (s.input s.keyRegion) (s.input s.nonceRegion) (s.input s.srcRegion) with
      | none => rfl
      | some p => exact (apply_ite (fun t => (Host.Outcome.next t : Result)) _ _ _).symm
  all_goals
    simp only [exec, State.checks,
      execNop, execZeroize, execCtCompare, execAesKeyexpEnc, execAesKeyexpDec, execAesEncBlock, execAesDecBlock,
      execAesCbcEnc, execAesCtrEnc, execAesCtrDec, execNonceInc, execChacha20Block, execChacha20Enc, execChacha20Dec,
      execHchacha20, execXchacha20Enc, execXchacha20Dec, execPoly1305Init, execPoly1305Add, execPoly1305Close,
      execC20p1305Enc, execC20p1305Dec, execXc20p1305Enc, execXc20p1305Dec, execSha256Init, execSha256Add,
      execSha256Close, execSha512Init, execSha512Add, execSha512Close, execBlake2sInit, execBlake2sAdd,
      execBlake2sClose, execHmacInitSha256, execHmacInitSha512, execHmacInitBlake2s, execHmacAdd, execHmacClose,
      execPbkdf2Sha256, execPbkdf2Sha512, execPbkdf2Blake2s, State.hmacOpen, State.pbkdf2Run]
    first
      | rfl
      | (generalize firstError _ = o; cases o <;> rfl)

/-- A command whose checks pass does its work. -/
theorem exec_work (i : Instr) (s : State) (h : firstError (s.checks i) = none) : exec i s = .next (s.work i) := by
  rw [exec_eq, State.outcome, h]

/-- A command fails with the first check that applies (R474). -/
theorem exec_raise (i : Instr) (s : State) (e : ErrCode) (h : firstError (s.checks i) = some e) :
    exec i s = .next (s.raise e) := by
  rw [exec_eq, State.outcome, h]

end Sys2Proof.Machine
end

