-- ==== Sys2Proof/Laws/Launch.lean ====
section
/-! SUPPORT. How the launch premises of 70_reset_and_hazards.md R531 hang together. -/

namespace Sys2Proof.Machine

theorem powerOn_atReset (p : Params) (m : Memory) : (State.powerOn p m).atReset m := rfl

theorem softReset_atReset (s : State) : s.softReset.atReset s.dmem := rfl

/-- A state at reset meets every premise that speaks of the core's own state. -/
theorem State.atReset_premises {s : State} {m : Memory} (h : s.atReset m) :
    s.isIdle ∧ s.isClean ∧ s.noSchedules ∧ s.sinksClosed ∧ s.dmem = m := by
  rw [h]
  exact ⟨rfl, ⟨rfl, rfl, rfl⟩, ⟨rfl, rfl⟩, ⟨rfl, rfl, rfl, rfl, rfl⟩, rfl⟩

end Sys2Proof.Machine
end

