-- ==== Sys2Proof/Laws/PerInstr.lean ====
section
/-! SUPPORT. One lemma per command about its encoding: it is well-formed, and decoding it gives it back (30_encoding.md
R142, R143, R162). -/

namespace Sys2Proof.Laws.Encoding

/-- The word of a command is legal and decodes to the command. -/
def Statement (i : Instr) : Prop := i.wellFormed = true ∧ decode (encode i) = .ok i

theorem nop : Statement .nop := ⟨rfl, rfl⟩

theorem zeroize : Statement .zeroize := ⟨rfl, rfl⟩

theorem ctCompare : Statement .ctCompare := ⟨rfl, rfl⟩

theorem aesKeyexpEnc : Statement .aesKeyexpEnc := ⟨rfl, rfl⟩

theorem aesKeyexpDec : Statement .aesKeyexpDec := ⟨rfl, rfl⟩

theorem aesEncBlock : Statement .aesEncBlock := ⟨rfl, rfl⟩

theorem aesDecBlock : Statement .aesDecBlock := ⟨rfl, rfl⟩

theorem aesCbcEnc : Statement .aesCbcEnc := ⟨rfl, rfl⟩

theorem aesCbcDec : Statement .aesCbcDec := ⟨rfl, rfl⟩

theorem aesCtrEnc : Statement .aesCtrEnc := ⟨rfl, rfl⟩

theorem aesCtrDec : Statement .aesCtrDec := ⟨rfl, rfl⟩

theorem nonceInc : Statement .nonceInc := ⟨rfl, rfl⟩

theorem chacha20Block : Statement .chacha20Block := ⟨rfl, rfl⟩

theorem chacha20Enc : Statement .chacha20Enc := ⟨rfl, rfl⟩

theorem chacha20Dec : Statement .chacha20Dec := ⟨rfl, rfl⟩

theorem hchacha20 : Statement .hchacha20 := ⟨rfl, rfl⟩

theorem xchacha20Enc : Statement .xchacha20Enc := ⟨rfl, rfl⟩

theorem xchacha20Dec : Statement .xchacha20Dec := ⟨rfl, rfl⟩

theorem poly1305Init : Statement .poly1305Init := ⟨rfl, rfl⟩

theorem poly1305Add : Statement .poly1305Add := ⟨rfl, rfl⟩

theorem poly1305Close : Statement .poly1305Close := ⟨rfl, rfl⟩

theorem c20p1305Enc : Statement .c20p1305Enc := ⟨rfl, rfl⟩

theorem c20p1305Dec : Statement .c20p1305Dec := ⟨rfl, rfl⟩

theorem xc20p1305Enc : Statement .xc20p1305Enc := ⟨rfl, rfl⟩

theorem xc20p1305Dec : Statement .xc20p1305Dec := ⟨rfl, rfl⟩

theorem sha256Init : Statement .sha256Init := ⟨rfl, rfl⟩

theorem sha256Add : Statement .sha256Add := ⟨rfl, rfl⟩

theorem sha256Close : Statement .sha256Close := ⟨rfl, rfl⟩

theorem sha512Init : Statement .sha512Init := ⟨rfl, rfl⟩

theorem sha512Add : Statement .sha512Add := ⟨rfl, rfl⟩

theorem sha512Close : Statement .sha512Close := ⟨rfl, rfl⟩

theorem blake2sInit : Statement .blake2sInit := ⟨rfl, rfl⟩

theorem blake2sAdd : Statement .blake2sAdd := ⟨rfl, rfl⟩

theorem blake2sClose : Statement .blake2sClose := ⟨rfl, rfl⟩

theorem hmacInitSha256 : Statement .hmacInitSha256 := ⟨rfl, rfl⟩

theorem hmacInitSha512 : Statement .hmacInitSha512 := ⟨rfl, rfl⟩

theorem hmacInitBlake2s : Statement .hmacInitBlake2s := ⟨rfl, rfl⟩

theorem hmacAdd : Statement .hmacAdd := ⟨rfl, rfl⟩

theorem hmacClose : Statement .hmacClose := ⟨rfl, rfl⟩

theorem pbkdf2Sha256 : Statement .pbkdf2Sha256 := ⟨rfl, rfl⟩

theorem pbkdf2Sha512 : Statement .pbkdf2Sha512 := ⟨rfl, rfl⟩

theorem pbkdf2Blake2s : Statement .pbkdf2Blake2s := ⟨rfl, rfl⟩

end Sys2Proof.Laws.Encoding
end

