-- ==== Sys2Proof/Laws/Step.lean ====
section
/-! SUPPORT. What a host access, a turn of the host and a step can do, each said once. -/

namespace Sys2Proof.Machine

/-- The only offset of CTRL is 0x008. -/
theorem ofOffset_ctrl (off : Nat) (h : off % 4 = 0) (hr : Reg.ofOffset off = some .ctrl) : off = 0x008 := by
  unfold Reg.ofOffset at hr
  split at hr
  · obtain ⟨k, hk, rfl⟩ : ∃ k, k < 23 ∧ off = 4 * k := ⟨off / 4, by omega, by omega⟩
    rw [Nat.mul_div_cancel_left k (by decide)] at hr
    have named : ∀ j < 23, namedRegs[j]? = some .ctrl → j = 2 := by decide
    rw [named k hk hr]
  · split at hr
    · simp at hr
    · split at hr <;> simp at hr

/-- What a host write can do. -/
theorem hostWrite_cases (s : State) (w : Width) (off : Nat) (v : Word) :
    s.hostWrite w off v = s ∨ s.hostWrite w off v = s.refuseAccess ∨
    (w = .w32 ∧ off = 0x008 ∧ s.hostWrite w off v = s.writeCtrl v) ∨
    s.hostWrite w off v = s.writeStatus v ∨ (s.busy = false ∧ s.hostWrite w off v = s.accept v) ∨
    (s.busy = false ∧ ∃ r, s.hostWrite w off v = { s with ops := s.ops.set r v }) ∨
    (s.busy = false ∧ off - dmemBase + w.bytes ≤ s.params.dmemSize ∧
      s.hostWrite w off v = s.store (off - dmemBase) (toLe v.toNat w.bytes)) := by
  unfold State.hostWrite
  by_cases h1 : off < dmemBase
  · rw [if_pos h1]
    by_cases h2 : regAccessOk w off = true
    · rw [if_pos h2]
      obtain ⟨hw, ho⟩ : w = .w32 ∧ off % 4 = 0 := by simpa [regAccessOk] using h2
      cases hr : Reg.ofOffset off with
      | none => exact .inl rfl
      | some r =>
        cases r with
        | ctrl => exact .inr (.inr (.inl ⟨hw, ofOffset_ctrl off ho hr, rfl⟩))
        | status => exact .inr (.inr (.inr (.inl rfl)))
        | cmd =>
          cases hb : s.busy with
          | true => exact .inr (.inl (by simp [State.writeReg, hb]))
          | false => exact .inr (.inr (.inr (.inr (.inl ⟨rfl, by simp [State.writeReg, hb]⟩))))
        | op r =>
          cases hb : s.busy with
          | true => exact .inr (.inl (by simp [State.writeReg, hb]))
          | false => exact .inr (.inr (.inr (.inr (.inr (.inl ⟨rfl, r, by simp [State.writeReg, hb]⟩)))))
        | id | version | errcode | outLen | ksRounds | kse | ksd =>
          cases hb : s.busy with
          | true => exact .inr (.inl (by simp [State.writeReg, hb]))
          | false => exact .inl (by simp [State.writeReg, hb])
    · rw [if_neg h2]
      exact .inr (.inl rfl)
  · rw [if_neg h1]
    by_cases h3 : s.inWindow off = true
    · rw [if_pos h3]
      cases hb : s.busy with
      | true => exact .inr (.inl (by simp))
      | false =>
        by_cases h4 : s.dmemAccessOk w off = true
        · refine .inr (.inr (.inr (.inr (.inr (.inr ⟨rfl, ?_, by simp [h4]⟩)))))
          simp only [State.dmemAccessOk, decide_eq_true_eq] at h4
          omega
        · exact .inr (.inl (by simp [h4]))
    · rw [if_neg h3]
      exact .inl rfl

/-- What a host read does to the state. -/
theorem hostRead_cases (s : State) (w : Width) (off : Nat) :
    (s.hostRead w off).2 = s ∨ (s.hostRead w off).2 = s.refuseAccess ∨
    (s.busy = true ∧ (s.hostRead w off).2 = s.afterBusyRead w off) := by
  unfold State.hostRead
  by_cases h1 : off < dmemBase
  · rw [if_pos h1]
    by_cases h2 : regAccessOk w off = true
    · rw [if_pos h2]
      cases Reg.ofOffset off <;> exact .inl rfl
    · rw [if_neg h2]
      exact .inr (.inl rfl)
  · rw [if_neg h1]
    by_cases h3 : s.inWindow off = true
    · rw [if_pos h3]
      cases hb : s.busy with
      | true => exact .inr (.inr ⟨rfl, by simp⟩)
      | false =>
        by_cases h4 : s.dmemAccessOk w off = true
        · exact .inl (by simp [h4])
        · exact .inr (.inl (by simp [h4]))
    · rw [if_neg h3]
      exact .inl rfl

/-- The host's turn changes only the model's own fields, or does one read or one write besides: `t` is the state after
the access, and the result is `t` with other values of the model's own fields. -/
theorem hostTurn_cases (s : State) :
    ∃ t, (t = s ∨ (∃ w off, t = ({ s with host := s.host.tail }.hostRead w off).2) ∨
        (∃ w off v, t = { s with host := s.host.tail }.hostWrite w off v)) ∧
      ∃ h d c, s.hostTurn = { t with host := h, hostData := d, checkFailed := c } := by
  unfold State.hostTurn
  split
  · exact ⟨s, .inl rfl, s.host, s.hostData, s.checkFailed, rfl⟩
  · rename_i op rest hs
    simp only [hs, List.tail_cons]
    cases op with
    | read w off => exact ⟨_, .inr (.inl ⟨w, off, rfl⟩), _, _, _, rfl⟩
    | write w off v => exact ⟨_, .inr (.inr ⟨w, off, v, rfl⟩), _, _, _, rfl⟩
    | expect w off v => exact ⟨_, .inr (.inl ⟨w, off, rfl⟩), _, _, _, rfl⟩
    | wait skip =>
      refine ⟨_, .inr (.inl ⟨.w32, Reg.status.offset, rfl⟩), ?_⟩
      simp only [State.hostDo]
      split
      · exact ⟨_, _, _, rfl⟩
      · split <;> exact ⟨_, _, _, rfl⟩

/-- A host with an empty agenda does nothing. -/
theorem hostTurn_nil (s : State) (h : s.host = []) : s.hostTurn = s := by simp [State.hostTurn, h]

/-- The host's turn is the first thing of its agenda. -/
theorem hostTurn_cons (s : State) (op : HostOp) (rest : List HostOp) (h : s.host = op :: rest) :
    s.hostTurn = State.hostDo { s with host := rest } op := by simp [State.hostTurn, h]

theorem step_idle (s : State) (h : s.phase = .idle) : step s = .next s.hostTurn := by
  simp [step, h]

theorem step_complete (s : State) (snap : Snapshot) (h : s.phase = .busy snap 0) :
    step s = s.complete snap.cmd := by
  simp [step, h]

theorem step_pending (s : State) (snap : Snapshot) (left : Nat) (h : s.phase = .busy snap (left + 1)) :
    step s = .next (s.pending snap left) := by
  simp [step, h]

/-- A completion is a command's, or IllegalCommand's (R142). -/
theorem complete_cases (s : State) (cmd : Word) :
    (∃ i, decode cmd = .ok i ∧ s.complete cmd = exec i s) ∨
    (∃ e, decode cmd = .error e ∧ s.complete cmd = .next (s.raise .illegalCommand)) := by
  unfold State.complete
  cases decode cmd with
  | ok i => exact .inl ⟨i, rfl, rfl⟩
  | error e => exact .inr ⟨e, rfl, rfl⟩

end Sys2Proof.Machine
end

