-- ==== Sys2Proof/Tests/Slice0.lean ====
section
/-! SUPPORT. The model's own tests. Expected results come from 95_test_vectors.md (row ids V-..., S..., E..., O..., H...
in the comments) or from the opcode map of 30_encoding.md; each test runs one step or one operation. The theorems named
`witness_` show, for each statement of Obligations.lean that has hypotheses, values that meet them, clause by clause. -/

namespace Sys2Proof.Tests

open Sys2Proof Sys2Proof.Machine

-- One kernel evaluation at a time: each needs a deep stack.
set_option Elab.async false

/-! ## Building small states -/

/-- Bytes a, a+1, ... -/
def count (a n : Nat) : Bytes := (List.range' a n).map (BitVec.ofNat 8)

/-- Where the tests put the operands. -/
def operands (key nonce aad src : Bytes) (cap : Nat) : OperandRegs :=
  { OperandRegs.zero with
    keyAddr := 0, keyLen := BitVec.ofNat 32 key.length
    nonceAddr := 0x100, nonceLen := BitVec.ofNat 32 nonce.length
    aadAddr := 0x140, aadLen := BitVec.ofNat 32 aad.length
    srcAddr := 0x180, srcLen := BitVec.ofNat 32 src.length
    dstAddr := 0x300, dstLen := BitVec.ofNat 32 cap
    tagAddr := 0x400 }

/-- The state after reset with operands in DMEM and the operand registers naming them; `cap` is DST_LEN. -/
def setup (key nonce aad src : Bytes) (cap : Nat) : State :=
  { State.reset with
    ops := operands key nonce aad src cap
    dmem := Memory.writeBytes (Memory.writeBytes (Memory.writeBytes (Memory.writeBytes [] 0 key) 0x100 nonce) 0x140 aad)
      0x180 src }

/-- ERRCODE, OUT_LEN and the first `n` bytes at DST after a command. -/
def outcome (r : Result) (n : Nat) : Option (ErrCode × Nat × Bytes) :=
  match r with
  | .next t => some (t.errcode, t.outLen.toNat, Memory.readBytes t.dmem 0x300 n)
  | _ => none

/-- The tag bytes after a command. -/
def tagOf (r : Result) : Option Bytes :=
  match r with
  | .next t => some (Memory.readBytes t.dmem 0x400 16)
  | _ => none

/-- ERRCODE and STATUS after a command. -/
def status (r : Result) : Option (ErrCode × Word) :=
  match r with
  | .next t => some (t.errcode, t.statusWord)
  | _ => none

/-- What a command left in one field. -/
def field {α : Type} (f : State → α) (r : Result) : Option α :=
  match r with
  | .next t => some (f t)
  | _ => none

/-- The 114-byte text T of section 2.6. -/
def textT : Bytes :=
  toBe 0x4c616469657320616e642047656e746c656d656e206f662074686520636c617373206f66202739393a204966204920636f756c64206f6666657220796f75206f6e6c79206f6e652074697020666f7220746865206675747572652c2073756e73637265656e20776f756c642062652069742e 114

/-- The ciphertext of V-AEAD2. -/
def cipherC : Bytes :=
  toBe 0xd31a8d34648e60db7b86afbc53ef7ec2a4aded51296e08fea9e2b5a736ee62d63dbea45e8ca9671282fafb69da92728b1a71de0a9e060b2905d6a5b67ecd3b3692ddbd7f2d778b8c9803aee328091b58fab324e4fad675945585808b4831d7bc3ff4def08e4b7a9de576d26586cec64b6116 114


/-! ## Ill-formed words -/

/-- R142: RSV. -/
theorem test_rsv_refused : (CmdFields.mk 1 0 0x00).legal = false := by decide

/-- R142: an unassigned OPC. -/
theorem test_opc_refused : (CmdFields.mk 0 0 0x43).legal = false := by decide

/-- R142: HSEL 3. -/
theorem test_hsel3_refused : (CmdFields.mk 0 3 0x60).legal = false := by decide

/-- R142: HSEL on a command that selects no hash. -/
theorem test_hsel_refused : (CmdFields.mk 0 1 0x10).legal = false := by decide

/-- R142: HSEL on HMAC_ADD. -/
theorem test_hsel_on_add_refused : (CmdFields.mk 0 1 0x61).legal = false := by decide

/-- E1 to E4, O10 and a word of ones. -/
theorem test_words_refused : decode 0x00000003 = .error .unassignedOpcode ∧ decode 0x00000110 = .error .unusedHsel ∧
    decode 0x00000360 = .error .reservedHsel ∧ decode 0x00000400 = .error .reservedBits ∧
    decode 0x00000410 = .error .reservedBits ∧ decode 0xFFFFFFFF = .error .reservedBits := by decide

/-- R148: a command is 32 bits. -/
theorem test_table_word_too_wide : decodeTableWord 32 (2 ^ 32) = none := by decide


/-! ## Words of the opcode map, written out bit by bit (RSV 22 bits, HSEL 2 bits, OPC 8 bits) -/

theorem test_decode_utilities : decode (0b00000000000000000000000000000000#32) = .ok .nop ∧
    decode (0b00000000000000000000000000000001#32) = .ok .zeroize ∧
    decode (0b00000000000000000000000000000010#32) = .ok .ctCompare := by decide

theorem test_decode_aes_blocks : decode (0b00000000000000000000000000010000#32) = .ok .aesKeyexpEnc ∧
    decode (0b00000000000000000000000000010001#32) = .ok .aesKeyexpDec ∧
    decode (0b00000000000000000000000000010010#32) = .ok .aesEncBlock ∧
    decode (0b00000000000000000000000000010011#32) = .ok .aesDecBlock := by decide

theorem test_decode_aes_modes : decode (0b00000000000000000000000000100000#32) = .ok .aesCbcEnc ∧
    decode (0b00000000000000000000000000100001#32) = .ok .aesCbcDec ∧
    decode (0b00000000000000000000000000100010#32) = .ok .aesCtrEnc ∧
    decode (0b00000000000000000000000000100011#32) = .ok .aesCtrDec ∧
    decode (0b00000000000000000000000000100100#32) = .ok .nonceInc := by decide

theorem test_decode_chacha20 : decode (0b00000000000000000000000000110000#32) = .ok .chacha20Block ∧
    decode (0b00000000000000000000000000110001#32) = .ok .chacha20Enc ∧
    decode (0b00000000000000000000000000110010#32) = .ok .chacha20Dec ∧
    decode (0b00000000000000000000000000110011#32) = .ok .hchacha20 ∧
    decode (0b00000000000000000000000000110100#32) = .ok .xchacha20Enc ∧
    decode (0b00000000000000000000000000110101#32) = .ok .xchacha20Dec := by decide

theorem test_decode_poly1305_aead : decode (0b00000000000000000000000001000000#32) = .ok .poly1305Init ∧
    decode (0b00000000000000000000000001000001#32) = .ok .poly1305Add ∧
    decode (0b00000000000000000000000001000010#32) = .ok .poly1305Close ∧
    decode (0b00000000000000000000000001000100#32) = .ok .c20p1305Enc ∧
    decode (0b00000000000000000000000001000101#32) = .ok .c20p1305Dec ∧
    decode (0b00000000000000000000000001000110#32) = .ok .xc20p1305Enc ∧
    decode (0b00000000000000000000000001000111#32) = .ok .xc20p1305Dec := by decide

theorem test_decode_hashes : decode (0b00000000000000000000000001010000#32) = .ok .sha256Init ∧
    decode (0b00000000000000000000000001010001#32) = .ok .sha256Add ∧
    decode (0b00000000000000000000000001010010#32) = .ok .sha256Close ∧
    decode (0b00000000000000000000000001010100#32) = .ok .sha512Init ∧
    decode (0b00000000000000000000000001010101#32) = .ok .sha512Add ∧
    decode (0b00000000000000000000000001010110#32) = .ok .sha512Close ∧
    decode (0b00000000000000000000000001011000#32) = .ok .blake2sInit ∧
    decode (0b00000000000000000000000001011001#32) = .ok .blake2sAdd ∧
    decode (0b00000000000000000000000001011010#32) = .ok .blake2sClose := by decide

theorem test_decode_hmac_pbkdf2 : decode (0b00000000000000000000000001100000#32) = .ok .hmacInitSha256 ∧
    decode (0b00000000000000000000000101100000#32) = .ok .hmacInitSha512 ∧
    decode (0b00000000000000000000001001100000#32) = .ok .hmacInitBlake2s ∧
    decode (0b00000000000000000000000001100001#32) = .ok .hmacAdd ∧
    decode (0b00000000000000000000000001100010#32) = .ok .hmacClose ∧
    decode (0b00000000000000000000000001100100#32) = .ok .pbkdf2Sha256 ∧
    decode (0b00000000000000000000000101100100#32) = .ok .pbkdf2Sha512 ∧
    decode (0b00000000000000000000001001100100#32) = .ok .pbkdf2Blake2s := by decide

theorem test_encode_all : [encode .nonceInc, encode .chacha20Block, encode .hmacInitSha512, encode .pbkdf2Blake2s] = [0x24, 0x30, 0x160, 0x264] := by decide


/-! ## Helper functions (2.1) -/

/-- V-U1 -/
theorem test_xtime : xtime 0x57 = 0xAE ∧ xtime 0xAE = 0x47 ∧ xtime 0x80 = 0x1B := by decide +kernel

/-- V-U2 -/
theorem test_gmul : gmul 0x57 0x83 = 0xC1 ∧ gmul 0x57 0x13 = 0xFE ∧ gmul 0x01 0xFF = 0xFF ∧ gmul 0x00 0x53 = 0x00 := by decide +kernel

/-- V-U3 to V-U5 -/
theorem test_pad7 : pad7 [0x61, 0x62, 0x63] = [0x61, 0x62, 0x63] ++ rep 0x0d 13 ∧ pad7 (count 0 16) = count 0 16 ++ rep 0x10 16 ∧
    pad7 [] = rep 0x10 16 := by decide +kernel

/-- V-U6 to V-U10 -/
theorem test_unpad7 : unpad7 (rep 0xaa 15 ++ [0x01]) = some (rep 0xaa 15) ∧ unpad7 (rep 0x10 16) = some [] ∧
    unpad7 (rep 0xaa 15 ++ [0x00]) = none ∧ unpad7 (rep 0xaa 15 ++ [0x11]) = none ∧
    unpad7 (rep 0xaa 14 ++ [0x03, 0x02]) = none := by decide +kernel

/-- V-U11 -/
theorem test_pad16 : pad16 [] = [] ∧ pad16 (count 0 12) = count 0 12 ++ zeros 4 ∧ pad16 (count 0 16) = count 0 16 := by decide +kernel

/-- R9 -/
theorem test_byte_order : be32 [1, 2, 3, 4] 0 = 0x01020304 ∧ le32 [1, 2, 3, 4] 0 = 0x04030201 ∧ toBe32 0x01020304 = [1, 2, 3, 4] ∧
    toLe32 0x01020304 = [4, 3, 2, 1] ∧ be64 (count 1 8) 0 = 0x0102030405060708 := by decide +kernel

/-- V-A1, V-A3 -/
theorem test_aes_tables : sbox 0x00 = 0x63 ∧ sbox 0x01 = 0x7C ∧ sbox 0x53 = 0xED ∧ sbox 0xFF = 0x16 ∧ invSbox 0x63 = 0x00 ∧
    invSbox 0xED = 0x53 ∧ tableE1 0x00 = 0xc66363a5 ∧ tableE1 0x53 = 0xc1eded2c ∧ tableD1 0x00 = 0x51f4a750 ∧
    tableU1 0x01 = 0x0e090d0b ∧ tableU1 0xff = 0x8d4697a3 := by decide +kernel

/-- V-A5 -/
theorem test_key_expansion_192 : let w := keyExpansion (toBe 0x8e73b0f7da0e6452c810f32b809079e562f8ead2522c6b7b 24)
    w.length = 52 ∧ w.getD 6 0 = 0xfe0c91f7 ∧ w.getD 51 0 = 0x01002202 := by decide +kernel

/-- V-A6 -/
theorem test_key_expansion_256 : let w := keyExpansion (toBe 0x603deb1015ca71be2b73aef0857d77811f352c073b6108d72d9810a30914dff4 32)
    w.length = 60 ∧ w.getD 8 0 = 0x9ba35411 ∧ w.getD 59 0 = 0x706c631e := by decide +kernel

/-- V-C1 -/
theorem test_quarter_round : quarterRound 0x11111111 0x01020304 0x9b8d6f43 0x01234567 = (0xea2a92f4, 0xcb1cf8ce, 0x4581472e, 0x5881c4bb) := by decide +kernel

/-- V-P1 -/
theorem test_poly_clamp : polyClamp (toBe 0x85d6be7857556d337f4452fe42d506a80103808afb0db2fd4abff6af4149f51b 32) =
      0x0806d5400e52447c036d555408bed685 ∧
    polySKey (toBe 0x85d6be7857556d337f4452fe42d506a80103808afb0db2fd4abff6af4149f51b 32) =
      0x1bf54941aff6bf4afdb20dfb8a800301 := by decide +kernel

/-- V-AEAD7 -/
theorem test_mac_data : (macData (toBe 0x50515253c0c1c2c3c4c5c6c7 12) cipherC).drop 144 =
    toBe 0x0c000000000000007200000000000000 16 ∧ (macData (toBe 0x50515253c0c1c2c3c4c5c6c7 12) cipherC).length = 160 := by decide +kernel


/-! ## Utility commands -/

/-- V-U13 -/
theorem test_nop : status (exec .nop State.reset) = some (.success, 0x00000002) := by decide +kernel

/-- V-U14 -/
theorem test_zeroize : let s := { setup [] [] [] [] 0 with
      kse := .load .ten (keyExpansion (count 0 16)), sha256 := ⟨true, ⟨h256, [1], 1⟩⟩ }
    status (exec .zeroize s) = some (.success, 0x00000002) ∧
      field (fun t => (t.ksRoundsWord, t.readReg (.kse 0), t.sha256)) (exec .zeroize s) =
        some (0, 0, Sink.closed (Sha2Ctx.zero 32)) := by decide +kernel

/-- The state of V-U12: SRC 01020304, TAG 01020305. -/
def compareState (n : Nat) : State :=
  { setup [] [] [] (toBe 0x01020304 4) 0 with
    ops := { operands [] [] [] [] 0 with srcLen := BitVec.ofNat 32 n }
    dmem := Memory.writeBytes (Memory.writeBytes [] 0x180 (toBe 0x01020304 4)) 0x400 (toBe 0x01020305 4) }

/-- V-U12 -/
theorem test_ct_compare : status (exec .ctCompare (compareState 4)) = some (.success, 0x00000002) ∧
    status (exec .ctCompare (compareState 3)) = some (.success, 0x0000000A) ∧
    status (exec .ctCompare (compareState 0)) = some (.success, 0x0000000A) := by decide +kernel


/-! ## AES engine -/

/-- V-A4 -/
theorem test_keyexp_enc : let r := exec .aesKeyexpEnc (setup (toBe 0x2b7e151628aed2a6abf7158809cf4f3c 16) [] [] [] 0)
    status r = some (.success, 0x00000012) ∧
      field (fun t => (t.ksRoundsWord, t.readReg (.kse 4), t.readReg (.kse 43), t.readReg (.kse 44))) r =
        some (0x0A, 0xa0fafe17, 0xb6630ca6, 0) := by decide +kernel

/-- E8 -/
theorem test_keyexp_enc_length : status (exec .aesKeyexpEnc (setup (count 0 20) [] [] [] 0)) = some (.invalidKeyLength, 0x00000006) := by decide +kernel

/-- V-A8 -/
theorem test_keyexp_dec : let r := exec .aesKeyexpDec (setup (count 0 16) [] [] [] 0)
    status r = some (.success, 0x00000022) ∧
      field (fun t => (t.ksRoundsWord, t.readReg (.ksd 0), t.readReg (.ksd 3), t.readReg (.ksd 40))) r =
        some (0xA00, 0x13111d7f, 0x4d2b30c5, 0x00010203) := by decide +kernel

/-- V-A9 -/
theorem test_keyexp_dec_middle : field (fun t => t.readReg (.ksd 4))
      (exec .aesKeyexpDec (setup (toBe 0x2b7e151628aed2a6abf7158809cf4f3c 16) [] [] [] 0)) = some 0x0c7b5a63 := by decide +kernel

/-- A state with both schedules loaded from a key and a source block. -/
def blockState (key src : Bytes) (nr : Rounds) (cap : Nat) : State :=
  { setup [] [] [] src cap with kse := .load nr (keyExpansion key), ksd := .load nr (decSchedule key) }

/-- V-A13 -/
theorem test_enc_block : outcome (exec .aesEncBlock (blockState (count 0 16) (toBe 0x00112233445566778899aabbccddeeff 16) .ten 5)) 6 =
    some (.success, 5, (toBe 0x69c4e0d86a 5) ++ [0]) := by decide +kernel

/-- S2 -/
theorem test_enc_block_256 : outcome (exec .aesEncBlock (blockState (count 0 32) (toBe 0x00112233445566778899aabbccddeeff 16) .fourteen 40)) 16 =
    some (.success, 16, (toBe 0x8ea2b7ca516745bfeafc49904b496089 16)) := by decide +kernel

/-- V-A12 -/
theorem test_dec_block : outcome (exec .aesDecBlock (blockState (count 0 24) (toBe 0xdda97ca4864cdfe06eaf70a0ec0d7191 16) .twelve 16)) 16 =
    some (.success, 16, (toBe 0x00112233445566778899aabbccddeeff 16)) := by decide +kernel

/-- O8, E14, E15, E23 -/
theorem test_block_errors : status (exec .aesEncBlock (setup [] [] [] (count 0 15) 16)) = some (.keyNotLoaded, 0x00000006) ∧
    status (exec .aesEncBlock (blockState (count 0 16) (count 0 15) .ten 16)) = some (.bufferTooShort, 0x00000036) ∧
    status (exec .aesEncBlock (blockState (count 0 16) (count 0 16) .ten 0)) = some (.bufferTooShort, 0x00000036) ∧
    status (exec .aesDecBlock { blockState (count 0 16) (count 0 16) .ten 16 with ksd := .unloaded }) =
      some (.keyNotLoaded, 0x00000016) := by decide +kernel


/-! ## AES modes -/

/-- V-CBC3 -/
theorem test_cbc_enc : outcome (exec .aesCbcEnc (setup (rep 2 16) (rep 1 16) [] (zeros 16) 32)) 32 =
    some (.success, 32, (toBe 0x8f42c24bee6e63472b165aa941312f7ca53fd2a20d3223106abaf30ae8b70972 32)) := by decide +kernel

/-- V-CBC9, O1 to O3 -/
theorem test_cbc_enc_errors : status (exec .aesCbcEnc (setup (rep 2 16) (rep 1 16) [] (zeros 16) 31)) = some (.bufferTooShort, 6) ∧
    status (exec .aesCbcEnc (setup (rep 2 20) (rep 1 12) [0] [] 0)) = some (.unsupportedOperation, 6) ∧
    status (exec .aesCbcEnc (setup (rep 2 20) (rep 1 12) [] [] 0)) = some (.invalidKeyLength, 6) ∧
    status (exec .aesCbcEnc (setup (rep 2 16) (rep 1 12) [] [] 0)) = some (.invalidNonceLength, 6) := by decide +kernel

/-- V-CBC7 -/
theorem test_cbc_dec : outcome (exec .aesCbcDec (setup (rep 2 16) (rep 1 16) []
      (toBe 0x8f42c24bee6e63472b165aa941312f7ca53fd2a20d3223106abaf30ae8b70972 32) 16)) 17 =
    some (.success, 16, zeros 17) := by decide +kernel

/-- V-CBC8, V-CBC6 (byte 15 of V-CBC2 xor 01), O5 -/
theorem test_cbc_dec_errors : status (exec .aesCbcDec (setup (rep 2 16) (rep 1 16) []
      (toBe 0x8f42c24bee6e63472b165aa941312f7ca53fd2a20d3223106abaf30ae8b70972 32) 15)) =
      some (.bufferTooShort, 6) ∧
    status (exec .aesCbcDec (setup (rep 2 16) (rep 1 16) [] (toBe 0xfa36e49e7f33f18fb5fe474a300b1084 16) 16)) =
      some (.invalidPadding, 6) ∧
    status (exec .aesCbcDec (setup (rep 2 16) (rep 1 16) [] (zeros 17) 0)) = some (.invalidArgument, 6) := by decide +kernel

/-- V-CTR2 -/
theorem test_ctr_enc : outcome (exec .aesCtrEnc (setup (rep 2 16) (rep 1 12) [] (count 0 40) 40)) 40 =
    some (.success, 40, (toBe 0x391c462e7a95e1758f2a332847cf9a9a389dc3add41abff25960abb8a82e7cb9378c6ccca879970f 40)) := by decide +kernel

/-- V-CTR5, V-CTR6 -/
theorem test_ctr_wrap : ctrXor .bits32 (rep 2 16) (rep 1 12 ++ rep 0xff 4) (zeros 32) 0 =
      (toBe 0x5361b7adeb4fbb2caed4b56b1ddf0c2c391d442d7e90e772872339234bc29495 32) ∧
    (ctrXor .bits128 (rep 2 16) (rep 1 12 ++ rep 0xff 4) (zeros 32) 0).drop 16 =
      (toBe 0x498c1103cfdfa87b88ff916a93b19221 16) := by decide +kernel

/-- A state with an offset. -/
def withKsi (s : State) (v : Nat) : State :=
  { s with ops := { s.ops with ksiLo := BitVec.ofNat 32 v, ksiHi := BitVec.ofNat 32 (v / 2 ^ 32) } }

/-- V-CTR3 read backwards (R283) -/
theorem test_ctr_dec : outcome (exec .aesCtrDec (withKsi (setup (rep 2 16) (rep 1 12) []
      (toBe 0x389dc3add41abff25960abb8a82e7cb9378c6ccca879970f 24) 24) 16)) 24 =
    some (.success, 24, count 16 24) := by decide +kernel

/-- V-CTR9, V-CTR10 -/
theorem test_ctr_offsets : status (exec .aesCtrEnc (withKsi (setup (rep 2 16) (rep 1 12) [] [] 0) 8)) = some (.invalidOffset, 6) ∧
    status (exec .aesCtrEnc (withKsi (setup (rep 2 16) (rep 1 12) [] [] 0) (2 ^ 36))) = some (.invalidOffset, 6) := by decide +kernel

/-- V-NI1 -/
theorem test_nonce_inc : outcome (exec .nonceInc { setup [] (toBe 0x000102030405060708090a0bfffffffe 16) [] [] 16 with
      ops := { operands [] (count 0 16) [] [] 16 with arg := 3 } }) 16 =
    some (.success, 16, (toBe 0x000102030405060708090a0b00000001 16)) := by decide +kernel

/-- V-NI4, V-NI2 -/
theorem test_nonce_inc_lengths : status (exec .nonceInc (setup [] (zeros 3) [] [] 16)) = some (.invalidNonceLength, 6) ∧
    status (exec .nonceInc (setup [] (zeros 17) [] [] 17)) = some (.invalidNonceLength, 6) ∧
    nonceInc (zeros 4) 0xFFFFFFFF = rep 0xff 4 := by decide +kernel


/-! ## ChaCha20 family -/

/-- V-C4 -/
theorem test_chacha20_block : outcome (exec .chacha20Block { setup (count 0 32) (toBe 0x000000090000004a00000000 12) [] [] 64 with
      ops := { operands (count 0 32) (zeros 12) [] [] 64 with arg := 1 } }) 64 =
    some (.success, 64, (toBe 0x10f1e7e4d13b5915500fdd1fa32071c4c7d1f4c733c068030422aa9ac3d46c4ed2826446079faa0914c2d705d98b02a2b5129cd1de164eb9cbd083e8a2503c4e 64)) := by decide +kernel

/-- V-C16 -/
theorem test_chacha20_block_errors : status (exec .chacha20Block (setup (zeros 16) (zeros 12) [] [] 64)) = some (.invalidKeyLength, 6) ∧
    status (exec .chacha20Block (setup (zeros 32) (zeros 8) [] [] 64)) = some (.invalidNonceLength, 6) ∧
    status (exec .chacha20Block (setup (zeros 32) (zeros 12) [] [] 63)) = some (.bufferTooShort, 6) := by decide +kernel

/-- V-C8 -/
theorem test_chacha20_enc : outcome (exec .chacha20Enc (withKsi (setup (count 0 32) (toBe 0x000000000000004a00000000 12) [] (zeros 10) 10) 60)) 10 =
    some (.success, 10, (toBe 0x9c9c1e4b224f51f3401b 10)) := by decide +kernel

/-- V-C9 to V-C11, the first two as decryption (R322) -/
theorem test_chacha20_dec_last_counter : outcome (exec .chacha20Dec (withKsi (setup (zeros 32) (zeros 12) [] (zeros 4) 4) ((2 ^ 32 - 1) * 64 + 60))) 4 =
      some (.success, 4, (toBe 0x23b58b1d 4)) ∧
    status (exec .chacha20Dec (withKsi (setup (zeros 32) (zeros 12) [] (zeros 5) 5) ((2 ^ 32 - 1) * 64 + 60))) =
      some (.invalidOffset, 6) ∧
    status (exec .chacha20Enc (withKsi (setup (zeros 32) (zeros 12) [] [] 0) (2 ^ 38))) = some (.invalidOffset, 6) := by decide +kernel

/-- V-C12 -/
theorem test_hchacha20 : outcome (exec .hchacha20 (setup (count 0 32) (toBe 0x000000090000004a0000000031415927 16) [] [] 32)) 32 =
    some (.success, 32, (toBe 0x82413b4227b27bfed30e42508a877d73a0f9e4d58a74a853c12ec41326d3ecdc 32)) := by decide +kernel

/-- V-C14 -/
theorem test_xchacha20_enc : outcome (exec .xchacha20Enc (setup (count 0x80 32) (count 0x40 24) [] (zeros 64) 64)) 64 =
    some (.success, 64, (toBe 0x7b191f80f361f099094f6f4b8fb97df847cc6873a8f2b190dd73807183f907d5a1cb27385b00329f7ddc127059d6882551a120e7631352e9b0381572e950155a 64)) := by decide +kernel

/-- E11 -/
theorem test_xchacha20_enc_nonce : status (exec .xchacha20Enc (setup (zeros 32) (zeros 12) [] [] 0)) = some (.invalidNonceLength, 6) := by decide +kernel

/-- V-C15 -/
theorem test_xchacha20_dec : outcome (exec .xchacha20Dec (setup (count 0x80 32) (count 0x40 24) []
      (toBe 0x7b191f80f361f099094f6f4b8fb97df847cc6873a8f2b190dd73807183f907d5a1cb27385b00329f7ddc127059d6882551a120e7631352e9b0381572e950155a 64) 64)) 64 =
    some (.success, 64, zeros 64) := by decide +kernel


/-! ## Poly1305 and AEAD -/

/-- The key K of section 2.5. -/
def polyKey : Bytes := toBe 0x85d6be7857556d337f4452fe42d506a80103808afb0db2fd4abff6af4149f51b 32

/-- A state with an open Poly1305 context. -/
def polyState (c : Poly1305Ctx) (src : Bytes) (cap : Nat) : State :=
  { setup polyKey [] [] src cap with poly1305 := ⟨true, c⟩ }

/-- V-P1, R33 -/
theorem test_poly1305_init : field (fun t => (t.statusWord, t.poly1305.ctx)) (exec .poly1305Init (setup polyKey [] [] [] 0)) =
    some (0x00000802, ⟨0x0806d5400e52447c036d555408bed685, 0x1bf54941aff6bf4afdb20dfb8a800301, 0, []⟩) := by decide +kernel

/-- V-P4 -/
theorem test_poly1305_add : field (fun t => t.poly1305.ctx.buf) (exec .poly1305Add (polyState (polyInit polyKey)
      (toBe 0x43727970746f6772617068696320466f72756d 19) 0)) = some [0x72, 0x75, 0x6d] := by decide +kernel

/-- V-P9 -/
theorem test_poly1305_add_closed : status (exec .poly1305Add (setup [] [] [] [] 0)) = some (.sinkNotOpen, 6) := by decide +kernel

/-- V-P4 -/
theorem test_poly1305_close : outcome (exec .poly1305Close (polyState
      (polyAdd (polyAdd (polyInit polyKey) (toBe 0x43727970746f6772617068696320466f72756d 19))
        (toBe 0x2052657365617263682047726f7570 15)) [] 16)) 16 =
    some (.success, 16, (toBe 0xa8061dc1305136c6c22b8baf0c0127a9 16)) := by decide +kernel

/-- V-P8: the context stays open -/
theorem test_poly1305_close_short : status (exec .poly1305Close (polyState (polyInit polyKey) [] 15)) = some (.bufferTooShort, 0x00000806) := by decide +kernel

/-- The nonce and the associated data of V-AEAD2. -/
def aeadNonce : Bytes := toBe 0x070000004041424344454647 12

/-- The associated data of V-AEAD2. -/
def aeadData : Bytes := toBe 0x50515253c0c1c2c3c4c5c6c7 12

/-- A state with a tag in DMEM. -/
def withTag (s : State) (t : Bytes) : State := { s with dmem := Memory.writeBytes s.dmem 0x400 t }

/-- V-AEAD2 -/
theorem test_c20p1305_enc : let r := exec .c20p1305Enc (setup (count 0x80 32) aeadNonce aeadData textT 114)
    outcome r 114 = some (.success, 114, cipherC) ∧ tagOf r = some (toBe 0x1ae10b594f09e26a7e902ecbd0600691 16) := by decide +kernel

/-- V-AEAD5 -/
theorem test_c20p1305_enc_empty : tagOf (exec .c20p1305Enc (setup (count 0x80 32) aeadNonce [] [] 0)) =
    some (toBe 0xa0784d7a4716f3feb4f64e7f4b39bf04 16) := by decide +kernel

/-- V-AEAD3 -/
theorem test_c20p1305_dec : outcome (exec .c20p1305Dec (withTag (setup (count 0x80 32) aeadNonce aeadData cipherC 114)
      (toBe 0x1ae10b594f09e26a7e902ecbd0600691 16))) 114 = some (.success, 114, textT) := by decide +kernel

/-- V-AEAD4, V-AEAD11 -/
theorem test_c20p1305_dec_tamper : outcome (exec .c20p1305Dec (withTag (setup (count 0x80 32) aeadNonce aeadData cipherC 114)
      (toBe 0x1be10b594f09e26a7e902ecbd0600691 16))) 114 = some (.authenticationFailure, 0, zeros 114) ∧
    status (exec .c20p1305Dec (withTag (setup (count 0x80 32) aeadNonce aeadData cipherC 113)
      (toBe 0x1be10b594f09e26a7e902ecbd0600691 16))) = some (.bufferTooShort, 6) := by decide +kernel

/-- V-AEAD8 -/
theorem test_xc20p1305_enc : let r := exec .xc20p1305Enc (setup (count 0x80 32) (count 0x40 24) aeadData textT 114)
    outcome r 114 = some (.success, 114, (toBe 0xbd6d179d3e83d43b9576579493c0e939572a1700252bfaccbed2902c21396cbb731c7f1b0b4aa6440bf3a82f4eda7e39ae64c6708c54c216cb96b72e1213b4522f8c9ba40db5d945b11b69b982c1bb9e3f3fac2bc369488f76b2383565d3fff921f9664c97637da9768812f615c68b13b52e 114)) ∧
      tagOf r = some (toBe 0xc0875924c1c7987947deafd8780acf49 16) := by decide +kernel

/-- V-AEAD10 -/
theorem test_xc20p1305_offset : status (exec .xc20p1305Enc (withKsi (setup (zeros 32) (zeros 24) [] [] 0) 64)) = some (.invalidOffset, 6) := by decide +kernel

/-- V-AEAD9 -/
theorem test_xc20p1305_dec : outcome (exec .xc20p1305Dec (withTag (setup (count 0x80 32) (count 0x40 24) [] [] 0)
      (toBe 0x1dac8f73146d1e9da796cb7f7221a5df 16))) 0 = some (.success, 0, []) := by decide +kernel


/-! ## Hashes -/

/-- A state with open hash contexts that the given bytes were added to. -/
def hashState (d src : Bytes) (cap : Nat) : State :=
  { setup [] [] [] src cap with
    sha256 := ⟨true, sha256Add sha256Init d⟩, sha512 := ⟨true, sha512Add sha512Init d⟩
    blake2s := ⟨true, blake2sAdd blake2sInit d⟩ }

/-- V-H11 -/
theorem test_hash_inits : status (exec .sha256Init State.reset) = some (.success, 0x00000102) ∧
    status (exec .sha512Init State.reset) = some (.success, 0x00000202) ∧
    status (exec .blake2sInit State.reset) = some (.success, 0x00000402) := by decide +kernel

/-- V-H4, R401 -/
theorem test_sha256_add : field (fun t => t.sha256.ctx) (exec .sha256Add (hashState [0x61, 0x62] [0x63] 0)) =
    some ⟨h256, [0x61, 0x62, 0x63], 3⟩ := by decide +kernel

/-- E6, E7 -/
theorem test_sha256_add_order : status (exec .sha256Add { setup [] [] [] [] 0 with ops := { operands [] [] [] [] 0 with srcAddr := 0x10001 } }) =
      some (.addressError, 6) ∧
    status (exec .sha256Add { setup [] [] [] [] 0 with ops := { operands [] [] [] [] 0 with srcAddr := 0x10000 } }) =
      some (.sinkNotOpen, 6) := by decide +kernel

/-- V-H3 -/
theorem test_sha256_close : outcome (exec .sha256Close (hashState (rep 0x61 56) [] 32)) 32 =
    some (.success, 32, (toBe 0xb35439a4ac6f0948b6d6f9e3c6af0f5f590ce20f1bde7090ef7970686ec6738a 32)) := by decide +kernel

/-- V-H9, V-H10 -/
theorem test_sha256_close_errors : status (exec .sha256Close (hashState [] [] 31)) = some (.bufferTooShort, 0x00000706) ∧
    status (exec .sha256Close (setup [] [] [] [] 32)) = some (.sinkNotOpen, 6) := by decide +kernel

/-- R411 -/
theorem test_sha512_add : field (fun t => (t.sha512.ctx.buf, t.sha512.ctx.total)) (exec .sha512Add (hashState (rep 0x61 100) (rep 0x61 30) 0)) =
    some ([0x61, 0x61], 130) := by decide +kernel

/-- V-H6 -/
theorem test_sha512_close : outcome (exec .sha512Close (hashState (rep 0x61 112) [] 64)) 64 =
    some (.success, 64, (toBe 0xc01d080efd492776a1c43bd23dd99d0a2e626d481e16782e75d54c2503b5dc32bd05f0f1ba33e568b88fd2d970929b719ecbb152f58f130a407c8830604b70ca 64)) := by decide +kernel

/-- V-H8, R426: a full block is held back -/
theorem test_blake2s_add : field (fun t => (t.blake2s.ctx.buf, t.blake2s.ctx.t)) (exec .blake2sAdd (hashState [0x61] (rep 0x61 63) 0)) =
    some (rep 0x61 64, 0) ∧
    field (fun t => (t.blake2s.ctx.buf, t.blake2s.ctx.t)) (exec .blake2sAdd (hashState [0x61] (rep 0x61 64) 0)) =
    some ([0x61], 64) := by decide +kernel

/-- V-H8 -/
theorem test_blake2s_close : outcome (exec .blake2sClose (hashState (rep 0x61 65) [] 32)) 32 =
    some (.success, 32, (toBe 0x045f8ae18932119bd051ac7ba5c73db59892055fad5c32f82d79a6543d92a497 32)) := by decide +kernel


/-! ## HMAC and PBKDF2 -/

/-- "Jefe" and its message (V-M1). -/
def jefe : Bytes := [0x4a, 0x65, 0x66, 0x65]

/-- The message of V-M1. -/
def jefeText : Bytes := toBe 0x7768617420646f2079612077616e7420666f72206e6f7468696e673f 28

/-- A state with an open HMAC context. -/
def hmacState (h : HashAlg) (d src : Bytes) (cap : Nat) : State :=
  { setup jefe [] [] src cap with
    hmac := ⟨true, { hmacInit h jefe with inner := (hmacInit h jefe).inner.add d }⟩ }

/-- A PBKDF2 state: password and salt of V-PB1. -/
def pbkdfState (iter bits cap : Nat) : State :=
  { setup (toBe 0x70617373776f7264 8) (toBe 0x73616c74 4) [] [] cap with
    ops := { operands (zeros 8) (zeros 4) [] [] cap with iter := BitVec.ofNat 32 iter, arg := BitVec.ofNat 32 bits } }

/-- V-M4, R441 (4a 65 66 65 00 xor 5c) -/
theorem test_hmac_init : status (exec .hmacInitSha256 (setup jefe [] [] [] 0)) = some (.success, 0x00001002) ∧
    field (fun t => (t.hmac.ctx.inner.alg, t.hmac.ctx.okey.take 5)) (exec .hmacInitSha512 (setup jefe [] [] [] 0)) =
      some (.sha512, [0x16, 0x39, 0x3a, 0x39, 0x5c]) := by decide +kernel

/-- V-M1, R446 -/
theorem test_hmac_add : field (fun t => t.hmac.ctx.inner) (exec .hmacAdd (hmacState .sha256 (jefeText.take 16) (jefeText.drop 16) 0)) =
    some ((hmacInit .sha256 jefe).inner.add jefeText) := by decide +kernel

/-- E25 -/
theorem test_hmac_add_closed : status (exec .hmacAdd (setup [] [] [] [] 0)) = some (.sinkNotOpen, 6) := by decide +kernel

/-- V-M1 -/
theorem test_hmac_close_sha512 : outcome (exec .hmacClose (hmacState .sha512 jefeText [] 64)) 64 =
    some (.success, 64, (toBe 0x164b7a7bfcf819e2e395fbe73b56e0a387bd64222e831fd610270cd7ea2505549758bf75c05a994a6d034f65f8f0e6fdcaeab1a34d4a6b4b636e070a38bce737 64)) := by decide +kernel

/-- V-M5 -/
theorem test_hmac_close_short : status (exec .hmacClose (hmacState .sha512 [] [] 32)) = some (.bufferTooShort, 0x00001006) := by decide +kernel

/-- V-M1, R445 -/
theorem test_hmac_blake2s_init_close : let s := hmacState .blake2s jefeText [] 32
    outcome (exec .hmacClose s) 32 = some (.success, 32, (toBe 0x90b6281e2f3038c9056af0b4a7e763cae6fe5d9eb4386a0ec95237890c104ff0 32)) ∧
      field (fun t => t.hmac.ctx) (exec .hmacInitBlake2s s) = some (hmacInit .blake2s jefe) := by decide +kernel

/-- R441: a key longer than the block is hashed -/
theorem test_hmac_long_key : (hmacInit .sha256 (rep 0xaa 131)).okey = xorBytes (sha256 (rep 0xaa 131) ++ zeros 32) (rep 0x5c 64) := by decide +kernel

/-- V-PB1 -/
theorem test_pbkdf2_sha256 : outcome (exec .pbkdf2Sha256 (pbkdfState 1 256 40)) 33 =
    some (.success, 32, (toBe 0x120fb6cffcf8b32c43e7225256c4f837a86548c92ccc35480805987cb70be17b 32) ++ [0]) := by decide +kernel

/-- V-PB5, V-PB9 -/
theorem test_pbkdf2_sha256_partial : outcome (exec .pbkdf2Sha256 (pbkdfState 1 12 2)) 3 = some (.success, 2, [0x12, 0x0f, 0]) ∧
    status (exec .pbkdf2Sha256 (pbkdfState 0 160 20)) = some (.invalidArgument, 6) ∧
    status (exec .pbkdf2Sha256 (pbkdfState 1 161 20)) = some (.bufferTooShort, 6) := by decide +kernel

/-- V-PB7 -/
theorem test_pbkdf2_sha512 : outcome (exec .pbkdf2Sha512 (pbkdfState 1 512 64)) 64 =
    some (.success, 64, (toBe 0x867f70cf1ade02cff3752599a3a53dc4af34c7a669815ae5d513554e1c8cf252c02d470a285a0501bad999bfe943c08f050235d7d68b1da55e63f73b60a57fce 64)) := by decide +kernel

/-- V-PB8 -/
theorem test_pbkdf2_blake2s : outcome (exec .pbkdf2Blake2s (pbkdfState 2 256 32)) 32 =
    some (.success, 32, (toBe 0x7b88e65e6e95a118bc995f681a391cbd7b46e0cf9750a81100f613add62d84be 32)) := by decide +kernel


/-! ## The host port (section 4) -/

/-- H1 -/
theorem test_read_id : State.reset.hostRead .w32 0x000 = (0x44435259, State.reset) ∧ State.reset.hostRead .w32 0x004 = (0x00070000, State.reset) := by decide +kernel

/-- H2 -/
theorem test_narrow_register_read : State.reset.hostRead .w16 0x00C = (0, { State.reset with werr := true }) := by decide +kernel

/-- H3 -/
theorem test_write_errcode : State.reset.hostWrite .w32 0x010 0x12345678 = State.reset := by decide +kernel

/-- H4 -/
theorem test_reserved_offset : State.reset.hostWrite .w32 0x05C 1 = State.reset ∧ State.reset.hostRead .w32 0x05C = (0, State.reset) := by decide +kernel

/-- H5, H6 -/
theorem test_dmem_little_endian : let s := State.reset.hostWrite .w32 0x10000 0x04030201
    ((s.hostRead .w8 0x10000).1, (s.hostRead .w8 0x10001).1, (s.hostRead .w8 0x10002).1, (s.hostRead .w8 0x10003).1) =
      (1, 2, 3, 4) ∧ be32 (Memory.readBytes s.dmem 0 4) 0 = 0x01020304 := by decide +kernel

/-- H7 -/
theorem test_dmem_misaligned : State.reset.hostWrite .w32 0x10002 5 = { State.reset with werr := true } := by decide +kernel

/-- A BUSY state: PBKDF2.SHA256 accepted, ten steps to go. -/
def busyState : State := (pbkdfState 1 160 20).launch 0x00000064 10

/-- R522, R104, I15 -/
theorem test_busy_dmem_read : (busyState.hostRead .w32 0x10004).2 = { busyState with draws := busyState.draws + 1 } ∧
    (busyState.hostRead .w32 0x10001).2 = { busyState with werr := true, draws := busyState.draws + 1 } := by decide +kernel

/-- D46, I15: ERRCODE, and a word of KSD. -/
theorem test_busy_read_only_write : busyState.hostWrite .w32 0x010 5 = { busyState with werr := true } ∧
    busyState.hostWrite .w32 0x2EC 5 = { busyState with werr := true } ∧ busyState.hostWrite .w32 0x05C 5 = busyState := by
  decide +kernel

/-- H8 -/
theorem test_busy_operand_write : busyState.hostWrite .w32 0x024 5 = { busyState with werr := true } := by decide +kernel

/-- H9 -/
theorem test_busy_cmd_write : busyState.hostWrite .w32 0x014 0 = { busyState with werr := true } := by decide +kernel

/-- H11, H12 -/
theorem test_busy_ctrl_write : busyState.hostWrite .w32 0x008 2 = { busyState with irqEn := true } ∧
    busyState.hostWrite .w32 0x008 1 = { State.reset with dmem := busyState.dmem } := by decide +kernel

/-- H13 -/
theorem test_irq : field (fun t => (t.irq, (t.hostWrite .w32 0x00C 2).irq)) (exec .nop { State.reset with irqEn := true }) =
    some (true, false) := by decide +kernel

/-- H14 -/
theorem test_clear : field (fun t => ((t.hostWrite .w32 0x00C 0x46).statusWord, (t.hostWrite .w32 0x00C 0x46).errcode))
      (exec .aesEncBlock State.reset) = some (0, .keyNotLoaded) := by decide +kernel

/-- E1, O10 -/
theorem test_illegal_command : status (step (State.reset.withFetchWord 32 0x00000003)) = some (.illegalCommand, 0x00000006) ∧
    status (step (State.reset.withFetchWord 32 0x00000410)) = some (.illegalCommand, 0x00000006) := by decide +kernel

/-- V-H11 as a step of the machine (R511) -/
theorem test_step_completes : status (step (State.reset.withFetchWord 32 0x00000050)) = some (.success, 0x00000102) := by decide +kernel

/-- R160: `set KEY_LEN, 16`. -/
theorem test_step_host_turn : (State.reset.withScript [.set (.op .keyLen) 16]).hostTurn = { State.reset with ops := { OperandRegs.zero with keyLen := 16 } } := by decide +kernel

/-- R550, R511: one step nearer the completion. -/
theorem test_step_busy_counts : field (fun t => t.phase) (step busyState) = some (.busy ⟨0x00000064, busyState.ops⟩ 9) := by decide +kernel

/-! ## Witnesses -/

/-- Operands whose regions all end at the last byte of DMEM. -/
def edge (keyLen nonceLen aadLen srcLen dstLen : Nat) : State :=
  { State.reset with
    ops :=
      { OperandRegs.zero with
        keyAddr := BitVec.ofNat 32 (65536 - keyLen), keyLen := BitVec.ofNat 32 keyLen
        nonceAddr := BitVec.ofNat 32 (65536 - nonceLen), nonceLen := BitVec.ofNat 32 nonceLen
        aadAddr := BitVec.ofNat 32 (65536 - aadLen), aadLen := BitVec.ofNat 32 aadLen
        srcAddr := BitVec.ofNat 32 (65536 - srcLen), srcLen := BitVec.ofNat 32 srcLen
        dstAddr := BitVec.ofNat 32 (65536 - dstLen), dstLen := BitVec.ofNat 32 dstLen
        tagAddr := 65520 } }

/-- An IDLE state with ITER and ARG. -/
def withArgs (s : State) (iter arg : Nat) : State :=
  { s with ops := { s.ops with iter := BitVec.ofNat 32 iter, arg := BitVec.ofNat 32 arg } }

theorem witness_IllegalWordsAreRejected :
    (∀ i, decode 0x00000043 ≠ .ok i) ∧ (∀ i, decode 0x00000400 ≠ .ok i) ∧ ∀ i, decode 0x00000161 ≠ .ok i := by
  refine ⟨?_, ?_, ?_⟩ <;> intro i <;> cases i <;> decide

theorem witness_DecodeAndEncodeAgree : decode 0x00000264 = .ok .pbkdf2Blake2s := by decide

theorem witness_StepRunsTheDecodedCommand :
    ((State.reset.withFetchWord 32 0x264).phase = .busy ⟨0x264, .zero⟩ 0 ∧ decode 0x264 = .ok .pbkdf2Blake2s) ∧
    busyState.phase = .busy ⟨0x64, busyState.ops⟩ (9 + 1) ∧ State.reset.phase = .idle ∧
    decode (BitVec.ofNat 32 0x264) = .ok .pbkdf2Blake2s := by decide +kernel

theorem witness_StepRunsTheDecodedCommand_illegal :
    (State.reset.withFetchWord 32 0x43).phase = .busy ⟨0x43, .zero⟩ 0 ∧ ∀ i, decode 0x43 ≠ .ok i :=
  ⟨by decide +kernel, fun i => by cases i <;> decide⟩

/-- A state whose host has one thing to do before `clear`. -/
def hostAt (op : HostOp) : State := { State.reset with host := op :: scriptOps [.clear] }

theorem witness_StepRunsTheDecodedCommand_host :
    State.reset.host = [] ∧ (hostAt (.read .w32 0x00C)).host = .read .w32 0x00C :: scriptOps [.clear] ∧
    (hostAt (.write .w32 0x024 16)).host = .write .w32 0x024 16 :: scriptOps [.clear] ∧
    (hostAt (.expect .w8 0x10020 0xAB)).host = .expect .w8 0x10020 0xAB :: scriptOps [.clear] ∧
    (hostAt (.wait 1)).host = .wait 1 :: scriptOps [.clear] := by decide +kernel

/-- R160: a `checkmem` of a byte that is not there fails, and a `check` of KEY_LEN = 0 does not. -/
theorem test_host_expect :
    (hostAt (.expect .w8 0x10020 0xAB)).hostTurn.checkFailed = true ∧
      (hostAt (.expect .w32 0x024 0)).hostTurn.checkFailed = false := by decide +kernel

/-- R164: after a step that failed the wait leaves the rest out; after one that did not it goes on. -/
theorem test_host_wait :
    ({ hostAt (.wait 1) with err := true } : State).hostTurn.host = [] ∧
      (hostAt (.wait 1)).hostTurn.host = scriptOps [.clear] := by decide +kernel

theorem witness_CommandsReadOnlyTheSnapshot :
    busyState.busy = true ∧ ∃ t, exec .nop busyState = .next t := ⟨by decide +kernel, _, exec_eq _ _⟩

theorem witness_CtCompareSetsEq :
    (edge 0 0 0 16 0).allFit [(edge 0 0 0 16 0).srcRegion, (edge 0 0 0 16 0).cmpRegion] ∧
    ¬ (edge 0 0 0 17 0).allFit [(edge 0 0 0 17 0).srcRegion, (edge 0 0 0 17 0).cmpRegion] := by
  unfold State.allFit
  decide +kernel

theorem witness_KeyExpansionsComplete :
    ∀ n ∈ [16, 24, 32], (edge n 0 0 0 0).allFit [(edge n 0 0 0 0).keyRegion] ∧
      (edge n 0 0 0 0).snap.keyLen.toNat ∈ [16, 24, 32] := by
  unfold State.allFit
  decide +kernel

theorem witness_KeyExpansionRecurrence :
    (zeros 16).length ∈ [16, 24, 32] ∧ (zeros 32).length ∈ [16, 24, 32] ∧ 3 < (zeros 16).length / 4 ∧
    (zeros 16).length / 4 ≤ 4 ∧ (zeros 32).length / 4 ≤ 59 ∧ 59 < 4 * ((zeros 32).length / 4 + 6 + 1) := by decide

theorem witness_DecScheduleWords :
    (zeros 32).length ∈ [16, 24, 32] ∧ 0 ≤ (zeros 32).length / 4 + 6 ∧ 14 ≤ (zeros 32).length / 4 + 6 ∧ 3 < 4 := by
  decide

theorem witness_AesBlocksComplete :
    let s : State :=
      { edge 0 0 0 16 1 with
        kse := .load .ten ((zeros 44).map (BitVec.setWidth 32))
        ksd := .load .fourteen ((zeros 60).map (BitVec.setWidth 32)) };
    Memory.wf s.params.dmemSize s.dmem = true ∧ s.allFit [s.srcRegion, s.dstRegion] ∧ 16 ≤ s.snap.srcLen.toNat ∧
      0 < s.snap.dstLen.toNat ∧ s.kse.nr.nr ≠ 0 ∧ s.ksd.nr.nr ≠ 0 := by
  unfold State.allFit
  decide +kernel

theorem witness_AesCbcEncCompletes :
    let s := edge 24 16 0 16 32;
    Memory.wf s.params.dmemSize s.dmem = true ∧ s.allFit [s.keyRegion, s.nonceRegion, s.srcRegion, s.dstRegion] ∧
      s.snap.aadLen = 0 ∧ s.snap.keyLen.toNat ∈ [16, 24, 32] ∧ s.snap.nonceLen.toNat = 16 ∧ s.ksi = 0 ∧
      s.snap.srcLen.toNat + 16 - s.snap.srcLen.toNat % 16 ≤ s.snap.dstLen.toNat := by
  unfold State.allFit
  decide +kernel

/-- The inputs of V-CBC7, V-CBC8 and V-CBC6: a good padding that fits, one that does not, and a bad one. -/
def cbcState (good : Bool) (cap : Nat) : State :=
  setup (rep 2 16) (rep 1 16) []
    (if good then toBe 0x8f42c24bee6e63472b165aa941312f7ca53fd2a20d3223106abaf30ae8b70972 32
      else toBe 0xfa36e49e7f33f18fb5fe474a300b1084 16) cap

theorem witness_AesCbcDecCompletes :
    (∀ g c, (g = true ∧ (c = 15 ∨ c = 16)) ∨ (g = false ∧ c = 16) →
      let s := cbcState g c;
      Memory.wf s.params.dmemSize s.dmem = true ∧ s.allFit [s.keyRegion, s.nonceRegion, s.srcRegion, s.dstRegion] ∧
        s.snap.aadLen = 0 ∧ s.snap.keyLen.toNat ∈ [16, 24, 32] ∧ s.snap.nonceLen.toNat = 16 ∧ s.ksi = 0 ∧
        s.snap.srcLen.toNat ≠ 0 ∧ s.snap.srcLen.toNat % 16 = 0) ∧
    (let s := cbcState false 16;
      cbcDec (s.input s.keyRegion) (s.input s.nonceRegion) (s.input s.srcRegion) = none) ∧
    (let s := cbcState true 15;
      cbcDec (s.input s.keyRegion) (s.input s.nonceRegion) (s.input s.srcRegion) = some (zeros 16) ∧
        s.snap.dstLen.toNat < (zeros 16).length) ∧
    (let s := cbcState true 16;
      cbcDec (s.input s.keyRegion) (s.input s.nonceRegion) (s.input s.srcRegion) = some (zeros 16) ∧
        (zeros 16).length ≤ s.snap.dstLen.toNat) := by
  refine ⟨?_, ?_, ?_, ?_⟩
  · unfold State.allFit
    rintro g c (⟨rfl, rfl | rfl⟩ | ⟨rfl, rfl⟩) <;> decide +kernel
  all_goals decide +kernel

theorem witness_CbcRoundTrip : (zeros 24).length ∈ [16, 24, 32] ∧ (zeros 16).length = 16 := by decide

theorem witness_AesCtrCompletes :
    ∀ n ∈ [12, 16],
      let s := withKsi (edge 32 n 0 5 5) (16 * (2 ^ 32 - 1));
      Memory.wf s.params.dmemSize s.dmem = true ∧ s.allFit [s.keyRegion, s.nonceRegion, s.srcRegion, s.dstRegion] ∧
        s.snap.aadLen = 0 ∧ s.snap.keyLen.toNat ∈ [16, 24, 32] ∧
        s.snap.nonceLen.toNat ∈ ctrNonceLengths s.params.ctrNonceLens ∧ s.ksi % 16 = 0 ∧ s.ksi / 16 < 2 ^ 32 ∧
        s.snap.srcLen.toNat ≤ s.snap.dstLen.toNat := by
  unfold State.allFit
  decide +kernel

theorem witness_CtrXorIsABlockKeystream :
    (zeros 16).length ≤ 16 ∧ 16 < (zeros 17).length ∧ 0 % 16 = 0 ∧ 32 % 16 = 0 := by decide

theorem witness_NonceIncCompletes :
    ∀ n ∈ [4, 16],
      let s := edge 0 n 0 0 n;
      Memory.wf s.params.dmemSize s.dmem = true ∧ s.allFit [s.nonceRegion, s.dstRegion] ∧
        4 ≤ s.snap.nonceLen.toNat ∧ s.snap.nonceLen.toNat ≤ 16 ∧ s.snap.nonceLen.toNat ≤ s.snap.dstLen.toNat := by
  unfold State.allFit
  decide +kernel

theorem witness_CtrOffsetMovesTheCounter : (rep 1 12).length = 12 := by decide

theorem witness_ChaChaBlocksComplete :
    ∀ p ∈ [(12, 64), (16, 32)],
      let s := edge 32 p.1 0 0 p.2;
      Memory.wf s.params.dmemSize s.dmem = true ∧ s.allFit [s.keyRegion, s.nonceRegion, s.dstRegion] ∧
        s.snap.keyLen.toNat = 32 ∧ s.snap.nonceLen.toNat = p.1 ∧ p.2 ≤ s.snap.dstLen.toNat := by
  unfold State.allFit
  decide +kernel

theorem witness_ChaChaStreamsComplete :
    ∀ p ∈ [(12, 4), (24, 4), (12, 0), (24, 0)],
      let s := withKsi (edge 32 p.1 0 p.2 p.2) (64 * (2 ^ 32 - 1) + 60);
      Memory.wf s.params.dmemSize s.dmem = true ∧ s.allFit [s.keyRegion, s.nonceRegion, s.srcRegion, s.dstRegion] ∧
        s.snap.aadLen = 0 ∧ s.snap.keyLen.toNat = 32 ∧
        (s.ksi + max s.snap.srcLen.toNat 1 - 1) / 64 < 2 ^ 32 ∧ s.snap.srcLen.toNat ≤ s.snap.dstLen.toNat ∧
        s.snap.nonceLen.toNat = p.1 := by
  unfold State.allFit
  decide +kernel

theorem witness_ChaXorIsAByteKeystream : 113 < textT.length := by decide +kernel

theorem witness_Poly1305CommandsComplete :
    (let s := edge 32 0 0 0 0;
      s.allFit [s.keyRegion] ∧ s.snap.keyLen.toNat = 32) ∧
    (let s := { edge 0 0 0 17 0 with poly1305 := ⟨true, polyInit polyKey⟩ };
      s.allFit [s.srcRegion] ∧ s.poly1305.isOpen = true) ∧
    (∀ b ∈ [[], [0x01]],
      let s := { edge 0 0 0 0 16 with poly1305 := ⟨true, { polyInit polyKey with buf := b }⟩ };
      Memory.wf s.params.dmemSize s.dmem = true ∧ s.allFit [s.dstRegion] ∧ s.poly1305.isOpen = true ∧
        16 ≤ s.snap.dstLen.toNat) := by
  unfold State.allFit
  decide +kernel

theorem witness_AeadEncryptionsComplete :
    ∀ n ∈ [12, 24],
      let s := edge 32 n 3 5 5;
      Memory.wf s.params.dmemSize s.dmem = true ∧
        s.allFit [s.keyRegion, s.nonceRegion, s.aadRegion, s.srcRegion, s.dstRegion, s.tagRegion] ∧
        s.snap.keyLen.toNat = 32 ∧ s.ksi = 0 ∧ s.snap.srcLen.toNat ≤ s.snap.dstLen.toNat ∧
        s.snap.nonceLen.toNat = n := by
  unfold State.allFit
  decide +kernel

/-- The inputs of V-AEAD9 (empty AAD and SRC, 24-byte nonce) and V-AEAD5 (12-byte nonce), with a tag. -/
def emptySealed (long : Bool) (t : Bytes) : State :=
  withTag (setup (count 0x80 32) (if long then count 0x40 24 else aeadNonce) [] [] 0) t

theorem witness_AeadDecryptionsComplete :
    (∀ b ∈ [true, false],
      let s := emptySealed b (zeros 16);
      Memory.wf s.params.dmemSize s.dmem = true ∧
        s.allFit [s.keyRegion, s.nonceRegion, s.aadRegion, s.srcRegion, s.dstRegion, s.tagRegion] ∧
        s.snap.keyLen.toNat = 32 ∧ s.ksi = 0 ∧ s.snap.srcLen.toNat ≤ s.snap.dstLen.toNat ∧
        s.snap.nonceLen.toNat = if b then 24 else 12) ∧
    (let s := emptySealed false (toBe 0xa0784d7a4716f3feb4f64e7f4b39bf04 16);
      s.input s.tagRegion =
        poly1305 ((chachaBlock (s.input s.keyRegion) 0 (s.input s.nonceRegion)).take 32)
          (macData (s.input s.aadRegion) (s.input s.srcRegion))) ∧
    (let s := emptySealed false (zeros 16);
      s.input s.tagRegion ≠
        poly1305 ((chachaBlock (s.input s.keyRegion) 0 (s.input s.nonceRegion)).take 32)
          (macData (s.input s.aadRegion) (s.input s.srcRegion))) ∧
    (let s := emptySealed true (toBe 0x1dac8f73146d1e9da796cb7f7221a5df 16);
      let k := hchacha (s.input s.keyRegion) ((s.input s.nonceRegion).take 16);
      let n := zeros 4 ++ (s.input s.nonceRegion).drop 16;
      s.input s.tagRegion =
        poly1305 ((chachaBlock k 0 n).take 32) (macData (s.input s.aadRegion) (s.input s.srcRegion))) ∧
    (let s := emptySealed true (zeros 16);
      let k := hchacha (s.input s.keyRegion) ((s.input s.nonceRegion).take 16);
      let n := zeros 4 ++ (s.input s.nonceRegion).drop 16;
      s.input s.tagRegion ≠
        poly1305 ((chachaBlock k 0 n).take 32) (macData (s.input s.aadRegion) (s.input s.srcRegion))) := by
  unfold State.allFit
  decide +kernel

theorem witness_AeadAcceptsOnlyItsTag : zeros 16 ≠ aeadTag (count 0x80 32) aeadNonce [] [] := by decide +kernel

/-- Open hash contexts one byte below their length limits. -/
def fullHashes (len : Nat) : State :=
  { edge 0 0 0 len 0 with
    sha256 := ⟨true, ⟨h256, zeros 62, 2 ^ 61 - 2⟩⟩, sha512 := ⟨true, ⟨h512, zeros 126, 2 ^ 125 - 2⟩⟩
    blake2s := ⟨true, ⟨blake2sStart, zeros 62, 2 ^ 64 - 64⟩⟩ }

theorem witness_HashAddsComplete :
    let s := fullHashes 1;
    s.allFit [s.srcRegion] ∧ (s.sha256.isOpen = true ∧ s.sha256.ctx.total + s.snap.srcLen.toNat < 2 ^ 61) ∧
      (s.sha512.isOpen = true ∧ s.sha512.ctx.total + s.snap.srcLen.toNat < 2 ^ 125) ∧
      s.blake2s.isOpen = true ∧ s.blake2s.ctx.t + s.blake2s.ctx.buf.length + s.snap.srcLen.toNat < 2 ^ 64 := by
  unfold State.allFit
  decide +kernel

theorem witness_HashClosesComplete :
    ∀ n ∈ [32, 64],
      let s :=
        { edge 0 0 0 0 n with
          sha256 := ⟨true, sha256Init⟩, sha512 := ⟨true, sha512Init⟩, blake2s := ⟨true, blake2sInit⟩ };
      Memory.wf s.params.dmemSize s.dmem = true ∧ s.allFit [s.dstRegion] ∧ s.sha256.isOpen = true ∧
        s.sha512.isOpen = true ∧ s.blake2s.isOpen = true ∧ 32 ≤ s.snap.dstLen.toNat ∧
        (n = 64 → 64 ≤ s.snap.dstLen.toNat) := by
  unfold State.allFit
  decide +kernel

theorem witness_Blake2sSinkHashesTheWhole :
    (∃ t, exec .blake2sInit State.reset = .next t) ∧
    (hashState (rep 0x61 64) [0x61] 32).blake2sHolds (rep 0x61 64) ∧
    (∃ t, exec .blake2sAdd (hashState (rep 0x61 64) [0x61] 32) = .next t ∧ t.err = false) ∧
    (∃ t, exec .blake2sClose (hashState (rep 0x61 64) [0x61] 32) = .next t ∧ t.err = false) ∧
    Memory.wf 65536 (hashState (rep 0x61 64) [0x61] 32).dmem = true ∧
    (let s := fullHashes 2;
      s.allFit [s.srcRegion] ∧ s.blake2s.isOpen = true ∧
        2 ^ 64 ≤ s.blake2s.ctx.t + s.blake2s.ctx.buf.length + s.snap.srcLen.toNat) := by
  refine ⟨⟨_, exec_eq _ _⟩, ⟨?_, ?_, fun _ => ?_, [], ?_⟩, ⟨_, exec_eq _ _, ?_⟩, ⟨_, exec_eq _ _, ?_⟩, ?_, ?_⟩
  case refine_8 =>
    unfold State.allFit
    decide +kernel
  all_goals decide +kernel

theorem witness_Poly1305SinkIsPoly1305 :
    (∃ t, exec .poly1305Init (edge 32 0 0 0 0) = .next t ∧ t.err = false) ∧
    (polyState (polyAdd (polyInit polyKey) (count 0 17)) [1] 16).polyHolds polyKey (count 0 17) ∧
    (∃ t, exec .poly1305Add (polyState (polyAdd (polyInit polyKey) (count 0 17)) [1] 16) = .next t ∧ t.err = false) ∧
    (∃ t, exec .poly1305Close (polyState (polyAdd (polyInit polyKey) (count 0 17)) [1] 16) = .next t ∧ t.err = false) ∧
    Memory.wf 65536 (polyState (polyAdd (polyInit polyKey) (count 0 17)) [1] 16).dmem = true := by
  refine ⟨⟨_, exec_eq _ _, ?_⟩, ⟨?_, ?_, ?_, ?_, count 0 16, ?_⟩,
    ⟨_, exec_eq _ _, ?_⟩, ⟨_, exec_eq _ _, ?_⟩, by decide +kernel⟩ <;> decide +kernel

theorem witness_Sha2SinksHashTheWhole :
    (∃ t, exec .sha256Init State.reset = .next t) ∧ (∃ t, exec .sha512Init State.reset = .next t) ∧
    (hashState (count 0 64) [1] 64).sha256Holds (count 0 64) ∧ (hashState (count 0 64) [1] 64).sha512Holds (count 0 64) ∧
    (∃ t, exec .sha256Add (hashState (count 0 64) [1] 64) = .next t ∧ t.err = false) ∧
    (∃ t, exec .sha256Close (hashState (count 0 64) [1] 64) = .next t ∧ t.err = false) ∧
    (∃ t, exec .sha512Add (hashState (count 0 64) [1] 64) = .next t ∧ t.err = false) ∧
    (∃ t, exec .sha512Close (hashState (count 0 64) [1] 64) = .next t ∧ t.err = false) ∧
    Memory.wf 65536 (hashState (count 0 64) [1] 64).dmem = true := by
  refine ⟨⟨_, exec_eq _ _⟩, ⟨_, exec_eq _ _⟩,
    ⟨?_, ?_, ?_, count 0 64, ?_⟩,
    ⟨?_, ?_, ?_, [], ?_⟩,
    ⟨_, exec_eq _ _, ?_⟩, ⟨_, exec_eq _ _, ?_⟩, ⟨_, exec_eq _ _, ?_⟩, ⟨_, exec_eq _ _, ?_⟩, by decide +kernel⟩ <;>
    decide +kernel

theorem witness_HmacSinkIsHmac :
    (∃ t, exec .hmacInitSha256 (setup jefe [] [] [] 0) = .next t ∧ t.err = false) ∧
    (hmacState .sha256 [1] [2] 32).hmacHolds .sha256 jefe [1] ∧
    (∃ t, exec .hmacAdd (hmacState .sha256 [1] [2] 32) = .next t ∧ t.err = false) ∧
    (∃ t, exec .hmacClose (hmacState .sha256 [1] [2] 32) = .next t ∧ t.err = false) ∧
    Memory.wf 65536 (hmacState .sha256 [1] [2] 32).dmem = true := by
  refine ⟨⟨_, exec_eq _ _, ?_⟩, ⟨?_, ?_, ?_⟩, ⟨_, exec_eq _ _, ?_⟩,
    ⟨_, exec_eq _ _, ?_⟩, by decide +kernel⟩ <;> decide +kernel

theorem witness_HmacCommandsComplete :
    (let s := edge 131 0 0 0 0;
      s.allFit [s.keyRegion]) ∧
    (let s := { edge 0 0 0 1 0 with hmac := ⟨true, ⟨.sha256 ⟨h256, zeros 62, 2 ^ 61 - 2⟩, zeros 64⟩⟩ };
      s.allFit [s.srcRegion] ∧ s.hmac.isOpen = true ∧
        s.hmac.ctx.inner.overflows s.snap.srcLen.toNat = false) ∧
    (let s := { edge 0 0 0 0 64 with hmac := ⟨true, ⟨.sha512 sha512Init, zeros 128⟩⟩ };
      Memory.wf s.params.dmemSize s.dmem = true ∧ s.allFit [s.dstRegion] ∧ s.hmac.isOpen = true ∧
        s.hmac.ctx.inner.alg.digestLen ≤ s.snap.dstLen.toNat) := by
  unfold State.allFit
  decide +kernel

theorem witness_Pbkdf2Completes :
    ∀ p ∈ [(160, 20), (161, 21), (0, 0)],
      let s := withArgs (edge 8 4 0 0 p.2) 1 p.1;
      Memory.wf s.params.dmemSize s.dmem = true ∧ s.allFit [s.keyRegion, s.nonceRegion, s.dstRegion] ∧
        s.snap.iter ≠ 0 ∧ (s.snap.arg.toNat + 7) / 8 ≤ s.snap.dstLen.toNat := by
  unfold State.allFit
  decide +kernel

theorem witness_Pbkdf2IsXorOfIterations : 1 ≤ 1 ∧ 20 < (161 + 7) / 8 := by decide

theorem witness_AesDecUndoesAesEnc :
    (zeros 16).length ∈ [16, 24, 32] ∧ (zeros 32).length ∈ [16, 24, 32] ∧ (zeros 16).length = 16 ∧ 15 < 16 := by decide

theorem witness_PaddingIsStripped :
    (rep 0x10 16 : Bytes) ≠ [] ∧ unpad7 (rep 0x10 16) = some [] ∧
      (rep 0x10 16 : Bytes) = [] ++ List.replicate 16 (BitVec.ofNat 8 16) := by decide

theorem witness_AesTablesMeetTheirFormulas : (0xFF : Byte) ≠ 0 ∧ 1 ≤ 1 ∧ 1 ≤ 9 ∧ 9 < 10 := by decide

theorem witness_FirstErrorIsReported :
    ((edge 20 12 1 0 0).firstApplicable .aesCbcEnc = some .unsupportedOperation ∧
      (edge 16 16 0 16 31).firstApplicable .aesCbcEnc = some .bufferTooShort) ∧
    (edge 16 16 0 16 32).firstApplicable .aesCbcEnc = none ∧ failsInWork .aesCbcEnc = false := by decide +kernel

theorem witness_OnlyListedErrors : ∃ t, exec .aesEncBlock State.reset = .next t := ⟨_, exec_eq _ _⟩

theorem witness_FailedCommandsChangeNothing :
    (∃ t, State.reset.complete 0x00000012 = .next t ∧ t.err = true) ∧
    ∃ t, State.reset.complete 0x00000003 = .next t ∧ t.err = true :=
  ⟨⟨State.reset.outcome .aesEncBlock,
      by rw [State.complete, show decode 0x00000012 = .ok .aesEncBlock by decide]; exact exec_eq _ _, by decide +kernel⟩,
    State.reset.raise .illegalCommand,
    by rw [State.complete, show decode 0x00000003 = .error .unassignedOpcode by decide], rfl⟩

theorem witness_BusyEnds : busyState.phase = .busy ⟨0x64, busyState.ops⟩ 10 := by decide +kernel

theorem witness_CommandsLeaveTheHostsRegisters : ∃ t, exec .zeroize busyState = .next t := ⟨_, exec_eq _ _⟩

theorem witness_InternalStateHasItsWriters :
    (∃ t, exec .ctCompare (compareState 3) = .next t ∧ t.eqFlag ≠ (compareState 3).eqFlag) ∧
    (∃ t, exec .aesKeyexpEnc (edge 16 0 0 0 0) = .next t ∧ t.kse ≠ (edge 16 0 0 0 0).kse) ∧
    (∃ t, exec .aesKeyexpDec (edge 16 0 0 0 0) = .next t ∧ t.ksd ≠ (edge 16 0 0 0 0).ksd) ∧
    (∃ t, exec .sha256Init State.reset = .next t ∧ t.sha256 ≠ State.reset.sha256) ∧
    (∃ t, exec .sha512Init State.reset = .next t ∧ t.sha512 ≠ State.reset.sha512) ∧
    (∃ t, exec .blake2sInit State.reset = .next t ∧ t.blake2s ≠ State.reset.blake2s) ∧
    (∃ t, exec .poly1305Init (edge 32 0 0 0 0) = .next t ∧ t.poly1305 ≠ (edge 32 0 0 0 0).poly1305) ∧
    ∃ t, exec .hmacInitSha256 State.reset = .next t ∧ t.hmac ≠ State.reset.hmac := by
  refine ⟨⟨_, exec_eq _ _, ?_⟩, ⟨_, exec_eq _ _, ?_⟩, ⟨_, exec_eq _ _, ?_⟩, ⟨_, exec_eq _ _, ?_⟩, ⟨_, exec_eq _ _, ?_⟩,
    ⟨_, exec_eq _ _, ?_⟩, ⟨_, exec_eq _ _, ?_⟩, ⟨_, exec_eq _ _, ?_⟩⟩ <;> decide +kernel

theorem witness_CommandsWriteOnlyTheirOutputs :
    let s := edge 32 12 0 1 1;
    Memory.wf s.params.dmemSize s.dmem = true ∧ ∃ t, exec .c20p1305Enc s = .next t ∧
      ¬ (s.snap.dstAddr.toNat ≤ 65519 ∧ 65519 < s.snap.dstAddr.toNat + t.outLen.toNat) ∧
      ¬ (writesTag .c20p1305Enc = true ∧ t.err = false ∧ s.snap.tagAddr.toNat ≤ 65519 ∧
        65519 < s.snap.tagAddr.toNat + 16) := by
  refine ⟨by decide +kernel, _, exec_eq _ _, ?_, ?_⟩ <;> decide +kernel

theorem witness_HostTurnsLeaveInternalState : busyState.busy = true := by decide +kernel

theorem witness_ResetMeetsTheInvariant :
    ∀ m ∈ [[], [(0, 1)], [(0, 0xFF), (63, 1)]],
      Params.wf ⟨64, .only12, .bits128, 0x40000000⟩ = true ∧ Memory.wf 64 m = true := by decide +kernel

theorem witness_StepKeepsTheInvariant : State.reset.Inv ∧ ∃ t, step State.reset = .next t := by
  refine ⟨?_, _, rfl⟩
  constructor <;> decide +kernel

theorem witness_StepKeepsTheInvariant_busy : busyState.Inv ∧ ∃ t, step (State.reset.withFetchWord 32 1) = .next t := by
  refine ⟨?_, _, rfl⟩
  constructor <;> decide +kernel

theorem witness_PowerOnValues : 0 < 60 ∧ 59 < 60 := by decide

theorem witness_CtrlWriteResetsOrSetsIrqEn :
    (0x00000003 : Word).getLsbD 0 = true ∧ (0x00000002 : Word).getLsbD 0 = false := by decide

theorem witness_StatusReadsItsBits : 13 ≤ 13 ∧ 13 ≤ 31 := by decide

theorem witness_CmdWriteStartsOrIsDropped :
    State.reset.phase = .idle ∧ busyState.phase ≠ .idle ∧
      ∀ off ∈ [0x020, 0x058], off % 4 = 0 ∧ 0x020 ≤ off ∧ off ≤ 0x058 := by decide +kernel

/-- A BUSY core with a DMEM of 66 bytes. -/
def busySmall : State := { busyState with params := { Params.default with dmemSize := 66 } }

theorem witness_AccessesWhileBusy :
    (busySmall.busy = true ∧ busySmall.phaseOk = true ∧ 59 < 60) ∧
    (∀ off ∈ [0x014, 0x020, 0x058, 0x000, 0x01C, 0x100, 0x1EC, 0x200, 0x2EC, 0x05C, 0x0FC, 0x1F0, 0x1FC, 0x2F0, 0xFFFC],
      off % 4 = 0) ∧
    (∀ p ∈ [(Width.w8, 65), (.w16, 64), (.w32, 60)],
      p.2 < busySmall.params.dmemSize ∧ p.2 % p.1.bytes = 0 ∧ p.2 + p.1.bytes ≤ busySmall.params.dmemSize) ∧
    (1 < busySmall.params.dmemSize ∧ 1 % Width.w16.bytes ≠ 0) ∧
    64 < busySmall.params.dmemSize ∧ busySmall.params.dmemSize < 64 + Width.w32.bytes := by
  decide +kernel

theorem witness_DmemWindowIsLittleEndian :
    State.reset.phase = .idle ∧ Memory.wf State.reset.params.dmemSize State.reset.dmem = true ∧
      ∀ p ∈ [(Width.w8, 65535), (.w16, 65534), (.w32, 65532), (.w32, 0)],
        p.2 % p.1.bytes = 0 ∧ p.2 + p.1.bytes ≤ State.reset.params.dmemSize ∧ p.1.bytes - 1 < p.1.bytes := by
  decide +kernel

theorem witness_IllFormedAndReservedAccesses :
    (0xFFFF < 0x10000 ∧ ¬ (Width.w32 = Width.w32 ∧ 0xFFFF % 4 = 0) ∧ ¬ (Width.w16 = Width.w32 ∧ 0x00C % 4 = 0)) ∧
    (0x05C % 4 = 0 ∧ 0x0FC % 4 = 0 ∧ 0x1F0 % 4 = 0 ∧ 0x1FC % 4 = 0 ∧ 0x2F0 % 4 = 0 ∧ 0xFFFC % 4 = 0) ∧
    0x10000 + State.reset.params.dmemSize ≤ 0x20000 ∧
    busyState.phase ≠ .idle ∧
    (State.reset.phase = .idle ∧ 0x10000 ≤ 0x1FFFF ∧ 0x1FFFF < 0x10000 + State.reset.params.dmemSize ∧
      0x1FFFF % Width.w16.bytes ≠ 0) ∧
    (let s := { State.reset with params := { Params.default with dmemSize := 66 } };
      0x10040 % Width.w32.bytes = 0 ∧ 0x10040 < 0x10000 + s.params.dmemSize ∧
        0x10000 + s.params.dmemSize < 0x10040 + Width.w32.bytes) ∧
    0x01C ∈ [0x000, 0x004, 0x010, 0x018, 0x01C] ∧ (0x100 ≤ 0x1EC ∧ 0x1EC < 0x1F0) ∧ 0x200 ≤ 0x2EC ∧ 0x2EC < 0x2F0 := by
  decide +kernel

theorem witness_HostWordSeenByteReversed :
    State.reset.phase = .idle ∧ Memory.wf State.reset.params.dmemSize State.reset.dmem = true ∧ 65532 % 4 = 0 ∧
      65532 + 4 ≤ State.reset.params.dmemSize := by decide +kernel

theorem witness_IrqIsDerived : State.reset.phase = .idle ∧ ∃ t, exec .nop State.reset = .next t :=
  ⟨by decide +kernel, _, exec_eq _ _⟩

theorem witness_ScriptsAreTheirAccesses :
    (Stmt.hmac .blake2s, (0x260 : Word), (0x61 : Word), (0x62 : Word)) ∈
      [(Stmt.sha256, 0x50, 0x51, 0x52), (.sha512, 0x54, 0x55, 0x56), (.blake2s, 0x58, 0x59, 0x5A),
       (.poly1305, 0x40, 0x41, 0x42), (.hmac .sha256, 0x060, 0x61, 0x62), (.hmac .sha512, 0x160, 0x61, 0x62),
       (.hmac .blake2s, 0x260, 0x61, 0x62)] := by
  decide

end Sys2Proof.Tests
end

namespace Sys2Proof.Machine

/-! ## What a command can do

Every command either fails, or writes its own internal state and then finishes, puts one output at DST, or seals. -/

/-- The state with what a command writes to EQ, the schedules and the sink contexts (40_utilities.md R191, R192,
41_aes_engine.md R235, R236, and the rules of the sinks); DMEM and the completion come after it. -/
def State.internalWrite (s : State) : Instr → State
  | .zeroize => s.zeroize
  | .ctCompare => { s with eqFlag := ctEq (s.input s.srcRegion) (s.input s.cmpRegion) }
  | .aesKeyexpEnc => { s with kse := .load (roundsOf (s.input s.keyRegion)) (keyExpansion (s.input s.keyRegion)) }
  | .aesKeyexpDec => { s with ksd := .load (roundsOf (s.input s.keyRegion)) (decSchedule (s.input s.keyRegion)) }
  | .poly1305Init => { s with poly1305 := ⟨true, polyInit (s.input s.keyRegion)⟩ }
  | .poly1305Add => { s with poly1305 := ⟨true, polyAdd s.poly1305.ctx (s.input s.srcRegion)⟩ }
  | .poly1305Close => { s with poly1305 := .closed .zero }
  | .sha256Init => { s with sha256 := ⟨true, Sys2Proof.Machine.sha256Init⟩ }
  | .sha256Add => { s with sha256 := ⟨true, Sys2Proof.Machine.sha256Add s.sha256.ctx (s.input s.srcRegion)⟩ }
  | .sha256Close => { s with sha256 := .closed (.zero 32) }
  | .sha512Init => { s with sha512 := ⟨true, Sys2Proof.Machine.sha512Init⟩ }
  | .sha512Add => { s with sha512 := ⟨true, Sys2Proof.Machine.sha512Add s.sha512.ctx (s.input s.srcRegion)⟩ }
  | .sha512Close => { s with sha512 := .closed (.zero 64) }
  | .blake2sInit => { s with blake2s := ⟨true, Sys2Proof.Machine.blake2sInit⟩ }
  | .blake2sAdd => { s with blake2s := ⟨true, Sys2Proof.Machine.blake2sAdd s.blake2s.ctx (s.input s.srcRegion)⟩ }
  | .blake2sClose => { s with blake2s := .closed .zero }
  | .hmacInitSha256 => { s with hmac := ⟨true, hmacInit .sha256 (s.input s.keyRegion)⟩ }
  | .hmacInitSha512 => { s with hmac := ⟨true, hmacInit .sha512 (s.input s.keyRegion)⟩ }
  | .hmacInitBlake2s => { s with hmac := ⟨true, hmacInit .blake2s (s.input s.keyRegion)⟩ }
  | .hmacAdd => { s with hmac := ⟨true, { s.hmac.ctx with inner := s.hmac.ctx.inner.add (s.input s.srcRegion) }⟩ }
  | .hmacClose => { s with hmac := .closed .zero }
  | _ => s

/-- A command's internal writes leave every field but EQ, the schedules and the contexts. -/
theorem internalWrite_frame (s : State) (i : Instr) :
    s.internalWrite i =
      { s with
        eqFlag := (s.internalWrite i).eqFlag, kse := (s.internalWrite i).kse, ksd := (s.internalWrite i).ksd
        sha256 := (s.internalWrite i).sha256, sha512 := (s.internalWrite i).sha512
        blake2s := (s.internalWrite i).blake2s, poly1305 := (s.internalWrite i).poly1305
        hmac := (s.internalWrite i).hmac } := by
  cases i <;> rfl

@[simp] theorem internalWrite_params (s : State) (i : Instr) : (s.internalWrite i).params = s.params :=
  (congrArg State.params (internalWrite_frame s i)).trans rfl

@[simp] theorem internalWrite_dstRegion (s : State) (i : Instr) : (s.internalWrite i).dstRegion = s.dstRegion :=
  (congrArg State.dstRegion (internalWrite_frame s i)).trans rfl

/-! What a command knows once its checks have passed. -/

section Passed

variable {s : State} {i : Instr}

/-- Every check of a command tests what 60_exceptions.md R474 reports as an error. -/
theorem checks_ne_success (s : State) (i : Instr) : ∀ c ∈ s.checks i, c.2 ≠ .success := by
  cases i <;>
    simp [State.checks, State.addressCheck, State.keyExpChecks, State.keyLenCheck, State.blockChecks, State.cbcChecks,
      State.aadCheck, State.nonceLenCheck, State.zeroOffsetCheck, State.capacityCheck, State.raggedCheck,
      State.ctrChecks, State.nonceIncChecks, State.keyedBlockChecks, State.streamChecks, State.streamOffsetCheck,
      State.aeadChecks, State.addChecks, State.closeChecks, State.pbkdf2Checks]

/-- A command whose checks passed names regions inside DMEM only (20_memory.md R105). -/
theorem allFit_of_passed (h : firstError (s.checks i) = none) : s.allFit (commandRegions s i) := by
  rw [firstError_eq_none] at h
  rw [← addressCheck_fst]
  cases i
  case nop | zeroize | sha256Init | sha512Init | blake2sInit => rfl
  all_goals
    refine h _ ?_
    simp [State.checks, commandRegions, State.keyExpChecks, State.blockChecks, State.cbcChecks, State.ctrChecks,
      State.nonceIncChecks, State.keyedBlockChecks, State.streamChecks, State.aeadChecks, State.addChecks,
      State.closeChecks, State.pbkdf2Checks]

/-- The region of a passed command at DST is as long as DST_LEN says and inside DMEM. -/
theorem dst_fits_of_passed (h : firstError (s.checks i) = none) (hd : s.dstRegion ∈ commandRegions s i) :
    s.dstRegion.addr + s.snap.dstLen.toNat ≤ s.params.dmemSize :=
  allFit_of_passed h _ hd

/-- A passed command that needs `n` bytes at DST has them. -/
theorem capacity_of_passed (h : firstError (s.checks i) = none) {n : Nat} (hn : s.capacityCheck n ∈ s.checks i) :
    n ≤ s.snap.dstLen.toNat :=
  (capacityCheck_fst s n).mp ((firstError_eq_none _).mp h _ hn)

end Passed

/-- The result of a command (60_exceptions.md R471, R472, R474): the error completion, or, once its checks have
passed, its internal writes followed by a completion with no output, with one output at DST, or with ciphertext and
tag. Each output fits in the region it is written to. -/
inductive Completes (s : State) (i : Instr) : State → Prop
  | fails (e : ErrCode) (he : e ≠ .success) : Completes s i (s.raise e)
  | finishes (h : firstError (s.checks i) = none) : Completes s i ((s.internalWrite i).finish 0)
  | outputs (h : firstError (s.checks i) = none) (out : Bytes)
      (hfit : s.dstRegion.addr + s.snap.dstLen.toNat ≤ s.params.dmemSize)
      (hlen : out.length ≤ s.snap.dstLen.toNat) : Completes s i ((s.internalWrite i).output out)
  | seals (h : firstError (s.checks i) = none) (hw : writesTag i = true) (c t : Bytes)
      (hfit : s.dstRegion.addr + s.snap.dstLen.toNat ≤ s.params.dmemSize)
      (htag : s.tagRegion.addr + t.length ≤ s.params.dmemSize)
      (hlen : c.length ≤ s.snap.dstLen.toNat) : Completes s i (s.seal c t)

/-- What AES_CBC_DEC does after its checks (42_aes_modes.md R281). -/
theorem cbcDecWork_cases (s : State) :
    s.cbcDecWork = s.raise .invalidPadding ∨ s.cbcDecWork = s.raise .bufferTooShort ∨
    ∃ p, p.length ≤ s.snap.dstLen.toNat ∧ s.cbcDecWork = s.output p := by
  unfold State.cbcDecWork
  split
  · exact .inl rfl
  · next p _ =>
    split
    · exact .inr (.inl rfl)
    · next hlt => exact .inr (.inr ⟨p, by omega, rfl⟩)

/-- What an AEAD decryption does after its checks (44_poly1305_aead.md R366). -/
theorem aeadDecrypt_cases (s : State) (k n : Bytes) :
    s.aeadDecrypt k n = s.raise .authenticationFailure ∨
    ∃ m, m.length = s.snap.srcLen.toNat ∧ s.aeadDecrypt k n = s.output m := by
  unfold State.aeadDecrypt aeadDec
  split
  · exact .inl rfl
  · next m hm =>
    split at hm
    · obtain rfl := Option.some.inj hm
      exact .inr ⟨_, by simp [State.srcRegion], rfl⟩
    · cases hm

/-- The AEAD encryptions complete with ciphertext and tag (R365, R367). -/
theorem aeadEncrypt_completes {s : State} {i : Instr} (hw : writesTag i = true)
    (h : firstError (s.checks i) = none) (hd : s.dstRegion ∈ commandRegions s i)
    (ht : s.tagRegion ∈ commandRegions s i) (hc : s.capacityCheck s.snap.srcLen.toNat ∈ s.checks i) (k n : Bytes) :
    Completes s i (s.aeadEncrypt k n) :=
  .seals h hw _ _ (dst_fits_of_passed h hd) (by simpa [State.tagRegion] using allFit_of_passed h _ ht)
    (by simpa [State.srcRegion] using capacity_of_passed h hc)

/-- The AEAD decryptions fail or output the plaintext (R366, R368). -/
theorem aeadDecrypt_completes {s : State} {i : Instr} (hi : s.internalWrite i = s)
    (h : firstError (s.checks i) = none) (hd : s.dstRegion ∈ commandRegions s i)
    (hc : s.capacityCheck s.snap.srcLen.toNat ∈ s.checks i) (k n : Bytes) :
    Completes s i (s.aeadDecrypt k n) := by
  rcases aeadDecrypt_cases s k n with hr | ⟨m, hm, hr⟩ <;> rw [hr]
  · exact .fails _ (by decide)
  · have hout := Completes.outputs h m (dst_fits_of_passed h hd) (hm ▸ capacity_of_passed h hc)
    rwa [hi] at hout

/-- The work of a command is one of the results `Completes` lists. -/
theorem work_completes (s : State) (i : Instr) (h : firstError (s.checks i) = none) : Completes s i (s.work i) := by
  have output {out : Bytes} (n : Nat) (hd : s.dstRegion ∈ commandRegions s i) (hn : s.capacityCheck n ∈ s.checks i)
      (hlen : out.length ≤ n) : Completes s i ((s.internalWrite i).output out) :=
    .outputs h out (dst_fits_of_passed h hd) (hlen.trans (capacity_of_passed h hn))
  cases i
  case nop | zeroize | ctCompare | aesKeyexpEnc | aesKeyexpDec | poly1305Init | poly1305Add | sha256Init | sha256Add
      | sha512Init | sha512Add | blake2sInit | blake2sAdd | hmacInitSha256 | hmacInitSha512 | hmacInitBlake2s
      | hmacAdd => exact .finishes h
  case aesEncBlock | aesDecBlock =>
    exact .outputs h _ (dst_fits_of_passed h (by simp [commandRegions])) (by simp [State.blockOutLen])
  case aesCbcEnc =>
    exact output s.cbcOutLen (by simp [commandRegions]) (by simp [State.checks])
      (by simp [length_cbcEnc, State.cbcOutLen, State.srcRegion])
  case aesCbcDec =>
    show Completes s .aesCbcDec s.cbcDecWork
    rcases cbcDecWork_cases s with hr | hr | ⟨p, hp, hr⟩ <;> rw [hr]
    · exact .fails _ (by decide)
    · exact .fails _ (by decide)
    · exact .outputs h p (dst_fits_of_passed h (by simp [commandRegions])) hp
  case aesCtrEnc | aesCtrDec =>
    exact output s.snap.srcLen.toNat (by simp [commandRegions]) (by simp [State.checks, State.ctrChecks])
      (by simp [State.ctrOut, State.srcRegion])
  case nonceInc =>
    have hn : 4 ≤ s.snap.nonceLen.toNat := by
      have := (firstError_eq_none _).mp h _ (List.mem_cons_of_mem _ (List.mem_cons_self ..))
      simp at this
      omega
    exact output s.snap.nonceLen.toNat (by simp [commandRegions]) (by simp [State.checks, State.nonceIncChecks])
      (by rw [length_nonceInc _ _ (by simpa [State.nonceRegion] using hn)]; simp [State.nonceRegion])
  case chacha20Block =>
    exact output 64 (by simp [commandRegions]) (by simp [State.checks, State.keyedBlockChecks]) (by simp)
  case hchacha20 =>
    exact output 32 (by simp [commandRegions]) (by simp [State.checks, State.keyedBlockChecks]) (by simp)
  case chacha20Enc | chacha20Dec =>
    exact output s.snap.srcLen.toNat (by simp [commandRegions]) (by simp [State.checks, State.streamChecks])
      (by simp [State.chachaOut, State.srcRegion])
  case xchacha20Enc | xchacha20Dec =>
    exact output s.snap.srcLen.toNat (by simp [commandRegions]) (by simp [State.checks, State.streamChecks])
      (by simp [State.xchachaOut, State.srcRegion])
  case c20p1305Enc | xc20p1305Enc =>
    exact aeadEncrypt_completes rfl h (by simp [commandRegions]) (by simp [commandRegions])
      (by simp [State.checks, State.aeadChecks]) _ _
  case c20p1305Dec | xc20p1305Dec =>
    exact aeadDecrypt_completes rfl h (by simp [commandRegions]) (by simp [State.checks, State.aeadChecks]) _ _
  case poly1305Close =>
    exact output 16 (by simp [commandRegions]) (by simp [State.checks]) (by simp)
  case sha256Close | blake2sClose =>
    exact output 32 (by simp [commandRegions]) (by simp [State.checks, State.closeChecks]) (by simp)
  case sha512Close =>
    exact output 64 (by simp [commandRegions]) (by simp [State.checks, State.closeChecks]) (by simp)
  case hmacClose =>
    exact output s.hmac.ctx.inner.alg.digestLen (by simp [commandRegions]) (by simp [State.checks, State.closeChecks])
      (by simp)
  case pbkdf2Sha256 | pbkdf2Sha512 | pbkdf2Blake2s =>
    exact output (ceilDiv s.snap.arg.toNat 8) (by simp [commandRegions]) (by simp [State.checks, State.pbkdf2Checks])
      (by simp)

/-- Whatever a command answers is one of the results `Completes` lists. -/
theorem exec_completes {i : Instr} {s t : State} (h : exec i s = .next t) : Completes s i t := by
  rw [exec_eq] at h
  obtain rfl := Host.Outcome.next.inj h
  unfold State.outcome
  split
  · next e he => exact .fails e (checks_ne_success s i _ (firstError_mem _ _ he))
  · next hn => exact work_completes s i hn

end Sys2Proof.Machine

namespace Sys2Proof.Machine

/-! ## The writers of internal state, the host's registers and the snapshot -/

/-- EQ, each schedule and each context is written by its own commands. -/
theorem internalWrite_writers (s : State) (i : Instr) :
    ((s.internalWrite i).eqFlag ≠ s.eqFlag → i = .ctCompare) ∧
    ((s.internalWrite i).kse ≠ s.kse → i ∈ [.aesKeyexpEnc, .zeroize]) ∧
    ((s.internalWrite i).ksd ≠ s.ksd → i ∈ [.aesKeyexpDec, .zeroize]) ∧
    ((s.internalWrite i).sha256 ≠ s.sha256 → i ∈ [.sha256Init, .sha256Add, .sha256Close, .zeroize]) ∧
    ((s.internalWrite i).sha512 ≠ s.sha512 → i ∈ [.sha512Init, .sha512Add, .sha512Close, .zeroize]) ∧
    ((s.internalWrite i).blake2s ≠ s.blake2s → i ∈ [.blake2sInit, .blake2sAdd, .blake2sClose, .zeroize]) ∧
    ((s.internalWrite i).poly1305 ≠ s.poly1305 → i ∈ [.poly1305Init, .poly1305Add, .poly1305Close, .zeroize]) ∧
    ((s.internalWrite i).hmac ≠ s.hmac →
      i ∈ [.hmacInitSha256, .hmacInitSha512, .hmacInitBlake2s, .hmacAdd, .hmacClose, .zeroize]) := by
  cases i <;> simp [State.internalWrite]

/-- Settles O45: a failing or sealing command keeps all of them, and any other changes what `internalWrite` changes. -/
theorem internalStateHasItsWriters : Obligations.InternalStateHasItsWriters := by
  intro i s t h
  cases exec_completes h with
  | fails e he => simp
  | finishes hpass => exact internalWrite_writers s i
  | outputs hpass out hfit hlen => exact internalWrite_writers s i
  | seals hpass hw c t hfit htag hlen => simp [State.seal]

/-- Settles O44, by the frame of the internal writes and of the four completions. -/
theorem commandsLeaveTheHostsRegisters : Obligations.CommandsLeaveTheHostsRegisters := by
  intro i s t h
  cases exec_completes h with
  | fails e he => simp
  | finishes hpass =>
    rw [internalWrite_frame]
    simp
  | outputs hpass out hfit hlen =>
    rw [internalWrite_frame]
    simp
  | seals hpass hw c t hfit htag hlen => simp [State.seal]

/-- The state with other live operand registers. -/
def State.withOps (s : State) (o : OperandRegs) : State := { s with ops := o }

@[simp] theorem input_withOps (s : State) (o : OperandRegs) (r : Region) : (s.withOps o).input r = s.input r := rfl

section Snapshot

variable {s : State} {snap : Snapshot} {left : Nat} (hb : s.phase = .busy snap left) (o : OperandRegs)

include hb

/-- While BUSY the checks of a command do not see the live operand registers (10_state.md R59). -/
theorem checks_withOps (i : Instr) : (s.withOps o).checks i = s.checks i := by
  cases s
  subst hb
  cases i <;> rfl

theorem snap_withOps : (s.withOps o).snap = s.snap := by
  simp [State.snap, State.withOps, hb]

theorem output_withOps (out : Bytes) : (s.withOps o).output out = (s.output out).withOps o := by
  simp only [State.output, State.dstRegion, snap_withOps hb]
  rfl

theorem cbcDecWork_withOps : (s.withOps o).cbcDecWork = s.cbcDecWork.withOps o := by
  simp only [State.cbcDecWork, State.keyRegion, State.nonceRegion, State.srcRegion, snap_withOps hb,
    input_withOps]
  generalize cbcDec _ _ _ = p
  cases p with
  | none => rfl
  | some p =>
    simp only [apply_ite (State.withOps · o), output_withOps hb]
    rfl

theorem aeadDecrypt_withOps (k n : Bytes) : (s.withOps o).aeadDecrypt k n = (s.aeadDecrypt k n).withOps o := by
  simp only [State.aeadDecrypt, State.aadRegion, State.tagRegion, State.srcRegion, snap_withOps hb,
    input_withOps]
  generalize aeadDec _ _ _ _ _ = m
  cases m with
  | none => rfl
  | some m => exact output_withOps hb o m

theorem seal_withOps (c t : Bytes) : (s.withOps o).seal c t = (s.seal c t).withOps o := by
  simp only [State.seal, State.dstRegion, State.tagRegion, snap_withOps hb]
  rfl

theorem aeadEncrypt_withOps (k n : Bytes) : (s.withOps o).aeadEncrypt k n = (s.aeadEncrypt k n).withOps o := by
  simp only [State.aeadEncrypt, State.aadRegion, State.srcRegion, snap_withOps hb, input_withOps, seal_withOps hb]

/-- While BUSY the work of a command neither sees nor writes the live operand registers (R59). -/
theorem work_withOps (i : Instr) : (s.withOps o).work i = (s.work i).withOps o := by
  cases i
  case aesCbcDec => exact cbcDecWork_withOps hb o
  case c20p1305Enc | xc20p1305Enc =>
    simp only [State.work, State.keyRegion, State.nonceRegion, snap_withOps hb, input_withOps, aeadEncrypt_withOps hb]
  case c20p1305Dec | xc20p1305Dec =>
    simp only [State.work, State.keyRegion, State.nonceRegion, snap_withOps hb, input_withOps, aeadDecrypt_withOps hb]
  case chacha20Block | hchacha20 =>
    simp only [State.work, State.keyRegion, State.nonceRegion, snap_withOps hb, input_withOps, output_withOps hb]
  case poly1305Close => exact output_withOps (s := { s with poly1305 := .closed .zero }) hb o _
  case sha256Close => exact output_withOps (s := { s with sha256 := .closed (.zero 32) }) hb o _
  case sha512Close => exact output_withOps (s := { s with sha512 := .closed (.zero 64) }) hb o _
  case blake2sClose => exact output_withOps (s := { s with blake2s := .closed .zero }) hb o _
  case hmacClose => exact output_withOps (s := { s with hmac := .closed .zero }) hb o _
  all_goals
    cases s
    subst hb
    rfl

end Snapshot

/-- Settles O5: with the phase BUSY, checks and work read the snapshot. -/
theorem commandsReadOnlyTheSnapshot : Obligations.CommandsReadOnlyTheSnapshot := by
  intro i s t o hbusy h
  obtain ⟨snap, left, hb⟩ := s.busy_iff.mp hbusy
  rw [exec_eq] at h
  obtain rfl := Host.Outcome.next.inj h
  show exec i (s.withOps o) = .next ((s.outcome i).withOps o)
  simp only [exec_eq, State.outcome, checks_withOps hb, work_withOps hb]
  cases firstError (s.checks i) <;> rfl

end Sys2Proof.Machine

namespace Sys2Proof.Machine

/-! ## The rules of the sink contexts and the schedules

Each context starts inside the bounds of its kind, and an ADD within the length limit keeps it there. -/

/-- Adding bytes below the length limit keeps the SHA-2 rule: what is left is the total modulo the block (R395, R409). -/
theorem sha2Wf_sha2Add {w blk limit : Nat} (comp : Hash8 w → Bytes → Hash8 w) {c : Sha2Ctx w} {d : Bytes}
    (hc : sha2Wf blk limit c = true) (hd : c.total + d.length < limit) :
    sha2Wf blk limit (sha2Add blk comp c d) = true := by
  obtain ⟨hbuf, -⟩ : c.buf.length = c.total % blk ∧ c.total < limit := by simpa [sha2Wf] using hc
  have hmod : (c.buf ++ d).length - blk * ((c.buf ++ d).length / blk) = (c.total + d.length) % blk := by
    rw [← Nat.mod_eq_sub, List.length_append, hbuf, Nat.mod_add_mod]
  simp only [sha2Wf, sha2Add, List.length_drop, decide_eq_true_eq]
  exact ⟨hmod, hd⟩

/-- The counter of BLAKE2s moves by 64 for each block compressed (R419). -/
theorem foldl_blakeBlock_snd (bs : List Bytes) (ht : Hash8 32 × Nat) :
    (bs.foldl blakeBlock ht).2 = ht.2 + 64 * bs.length := by
  induction bs generalizing ht with
  | nil => rfl
  | cons b bs ih =>
    rw [List.foldl_cons, ih, List.length_cons]
    simp only [blakeBlock]
    omega

/-- Adding bytes below the length limit keeps the BLAKE2s rule: a last full block is held back (R420). -/
theorem blake2sWf_blake2sAdd {c : Blake2sCtx} {d : Bytes} (hc : blake2sWf c = true)
    (hd : c.t + c.buf.length + d.length < 2 ^ 64) : blake2sWf (blake2sAdd c d) = true := by
  simp only [blake2sWf, blake2sAdd, decide_eq_true_eq, foldl_blakeBlock_snd, length_pieces, List.length_drop,
    List.length_append, blakeFull] at hc ⊢
  omega

/-- One Poly1305 step leaves a reduced accumulator (R351). -/
theorem polyStep_lt (r : BitVec 128) (acc : Nat) (c : Bytes) : polyStep r acc c < polyP :=
  Nat.mod_lt _ (by decide)

theorem foldl_polyStep_lt (r : BitVec 128) (cs : List Bytes) {acc : Nat} (h : acc < polyP) :
    cs.foldl (polyStep r) acc < polyP := by
  induction cs generalizing acc with
  | nil => exact h
  | cons c cs ih => exact ih (polyStep_lt r acc c)

/-- Adding bytes keeps the Poly1305 rule (R354, R361). -/
theorem polyWf_polyAdd {c : Poly1305Ctx} (d : Bytes) (hc : polyWf c = true) : polyWf (polyAdd c d) = true := by
  simp only [polyWf, polyAdd, decide_eq_true_eq, List.length_drop] at hc ⊢
  obtain ⟨hr, hacc, -⟩ := hc
  exact ⟨hr, foldl_polyStep_lt _ _ hacc, by omega⟩

/-- A fresh Poly1305 context has a clamped r and an empty accumulator and buffer (R350, R360). -/
theorem polyWf_polyInit (k : Bytes) : polyWf (polyInit k) = true := by
  have hclamp : ∀ x m : BitVec 128, x &&& m &&& m = x &&& m := fun x m => by
    rw [BitVec.and_assoc, BitVec.and_self]
  exact decide_eq_true ⟨hclamp _ _, (by decide : 0 < polyP), (by decide : 0 < 16)⟩

theorem sha2Wf_sha256Init : sha2Wf 64 (2 ^ 61) Sys2Proof.Machine.sha256Init = true := by decide

theorem sha2Wf_sha512Init : sha2Wf 128 (2 ^ 125) Sys2Proof.Machine.sha512Init = true := by decide

theorem blake2sWf_blake2sInit : blake2sWf Sys2Proof.Machine.blake2sInit = true := by decide

/-- Adding bytes that pass the length check keeps a hash context's rule (R421). -/
theorem HashCtx.wf_add {c : HashCtx} {d : Bytes} (hc : c.wf = true) (hd : c.tooLong d.length = false) :
    (c.add d).wf = true := by
  cases c with
  | sha256 x => exact sha2Wf_sha2Add comp256 hc (by simpa [HashCtx.tooLong, sha256TooLong] using hd)
  | sha512 x => exact sha2Wf_sha2Add comp512 hc (by simpa [HashCtx.tooLong, sha512TooLong] using hd)
  | blake2s x => exact blake2sWf_blake2sAdd hc (by simpa [HashCtx.tooLong, blake2sTooLong] using hd)

theorem HashAlg.wf_init (h : HashAlg) : h.init.wf = true := by
  cases h
  · exact sha2Wf_sha256Init
  · exact sha2Wf_sha512Init
  · exact blake2sWf_blake2sInit

/-- One block is far below every length limit. -/
theorem HashAlg.init_not_tooLong (h : HashAlg) : h.init.tooLong h.blockLen = false := by
  cases h <;> decide

/-- HMAC_INIT opens a context that meets its rule: okey of B_h bytes, one block added to a fresh hash (R445). -/
theorem hmacWf_hmacInit (h : HashAlg) (k : Bytes) : hmacWf (hmacInit h k) = true := by
  simp only [hmacWf, hmacInit, Bool.and_eq_true]
  exact ⟨by simp, HashCtx.wf_add h.wf_init (by simpa using h.init_not_tooLong)⟩

/-- HMAC_ADD below the length limit keeps the rule of ctx.HMAC (R446). -/
theorem hmacWf_add {c : HmacCtx} {d : Bytes} (hc : hmacWf c = true) (hd : c.inner.tooLong d.length = false) :
    hmacWf { c with inner := c.inner.add d } = true := by
  simp only [hmacWf, Bool.and_eq_true, decide_eq_true_eq] at hc ⊢
  obtain ⟨hokey, hinner⟩ := hc
  exact ⟨by simpa using hokey, HashCtx.wf_add hinner hd⟩

section Sink

variable {α : Type} [DecidableEq α] {wf : α → Bool} {zero : α}

/-- An open sink that meets its rule. -/
@[simp] theorem sinkOk_open (c : α) : sinkOk wf zero ⟨true, c⟩ = wf c := rfl

/-- A closed sink at its closed value. -/
@[simp] theorem sinkOk_closed : sinkOk wf zero (.closed zero) = true := by simp [sinkOk, Sink.closed]

/-- The context of an open sink meets the rule of its kind. -/
theorem wf_of_sinkOk {k : Sink α} (h : sinkOk wf zero k = true) (ho : k.isOpen = true) : wf k.ctx = true := by
  simpa [sinkOk, ho] using h

end Sink

/-- No schedule loaded: every word is 0 (R53). -/
theorem unloaded_wf : Schedule.unloaded.wf = true := by decide

/-- The words of a schedule that was loaded with at most 60. -/
theorem toList_load (nr : Rounds) (w : List Word) :
    (Schedule.load nr w).toList = (w ++ List.replicate 60 0).take 60 := rfl

/-- A schedule loaded with all its words holds 0 past them (R235, R236). -/
theorem load_wf {nr : Rounds} {w : List Word} (hused : (Schedule.load nr w).used = w.length) :
    (Schedule.load nr w).wf = true := by
  rw [Schedule.wf, hused, toList_load, List.drop_take, List.drop_left, List.take_replicate]
  simp only [List.all_replicate, beq_self_eq_true, ite_self]

/-- The round count of a valid key (R220). -/
theorem roundsOf_nr {key : Bytes} (hk : key.length ∈ aesKeyLens) : (roundsOf key).nr = keyNr key := by
  simp only [aesKeyLens, List.mem_cons, List.not_mem_nil, or_false] at hk
  rcases hk with hk | hk | hk <;> simp [roundsOf, keyNr, keyNk, Rounds.nr, hk]

/-- The schedule of a valid key uses as many words as the key's expansion has (R53, R228). -/
theorem used_load_roundsOf {key : Bytes} (hk : key.length ∈ aesKeyLens) (w : List Word) :
    (Schedule.load (roundsOf key) w).used = 4 * (keyNr key + 1) := by
  simp [Schedule.used, Schedule.load, roundsOf_nr hk, keyNr]

end Sys2Proof.Machine

namespace Sys2Proof.Machine

/-! ## The invariant is kept -/

section Invariant

variable {s : State}

/-- The reset values of 10_state.md R70 meet the invariant, whatever the parameters and DMEM. -/
theorem powerOn_inv {p : Params} {m : Memory} (hp : p.wf = true) (hm : Memory.wf p.dmemSize m = true) :
    (State.powerOn p m).Inv where
  params := hp
  dmem := hm
  kse := unloaded_wf
  ksd := unloaded_wf
  sha256 := sinkOk_closed
  sha512 := sinkOk_closed
  blake2s := sinkOk_closed
  poly1305 := sinkOk_closed
  hmac := sinkOk_closed
  phase := rfl
  result := rfl

/-! Completions. -/

/-- Success leaves code 0 (R471). -/
theorem finish_inv (hs : s.Inv) (n : Nat) : (s.finish n).Inv :=
  { hs with phase := rfl, result := rfl }

/-- An error completion leaves an error code and OUT_LEN 0 (R472). -/
theorem raise_inv (hs : s.Inv) {e : ErrCode} (he : e ≠ .success) : (s.raise e).Inv :=
  { hs with phase := rfl, result := by simp [State.resultOk, he] }

/-- Bytes stored inside DMEM keep its canonical form (20_memory.md R100). -/
theorem store_inv (hs : s.Inv) {a : Nat} {v : Bytes} (hfit : a + v.length ≤ s.params.dmemSize) : (s.store a v).Inv :=
  { hs with dmem := Memory.wf_writeBytes hs.dmem hfit }

theorem output_inv (hs : s.Inv) {out : Bytes} (hfit : s.dstRegion.addr + out.length ≤ s.params.dmemSize) :
    (s.output out).Inv :=
  finish_inv (store_inv hs hfit) _

/-! Internal writes. -/

theorem inv_with_eqFlag (hs : s.Inv) (b : Bool) : { s with eqFlag := b }.Inv := { hs with }

theorem inv_with_kse (hs : s.Inv) {k : Schedule} (hk : k.wf = true) : { s with kse := k }.Inv := { hs with kse := hk }

theorem inv_with_ksd (hs : s.Inv) {k : Schedule} (hk : k.wf = true) : { s with ksd := k }.Inv := { hs with ksd := hk }

theorem inv_with_sha256 (hs : s.Inv) {k : Sink (Sha2Ctx 32)} (hk : sinkOk (sha2Wf 64 (2 ^ 61)) (.zero 32) k = true) :
    { s with sha256 := k }.Inv := { hs with sha256 := hk }

theorem inv_with_sha512 (hs : s.Inv) {k : Sink (Sha2Ctx 64)} (hk : sinkOk (sha2Wf 128 (2 ^ 125)) (.zero 64) k = true) :
    { s with sha512 := k }.Inv := { hs with sha512 := hk }

theorem inv_with_blake2s (hs : s.Inv) {k : Sink Blake2sCtx} (hk : sinkOk blake2sWf .zero k = true) :
    { s with blake2s := k }.Inv := { hs with blake2s := hk }

theorem inv_with_poly1305 (hs : s.Inv) {k : Sink Poly1305Ctx} (hk : sinkOk polyWf .zero k = true) :
    { s with poly1305 := k }.Inv := { hs with poly1305 := hk }

theorem inv_with_hmac (hs : s.Inv) {k : Sink HmacCtx} (hk : sinkOk hmacWf .zero k = true) :
    { s with hmac := k }.Inv := { hs with hmac := hk }

/-- ZEROIZE unloads both schedules and closes every context (40_utilities.md R191). -/
theorem zeroize_inv (hs : s.Inv) : s.zeroize.Inv :=
  { hs with
    kse := unloaded_wf, ksd := unloaded_wf, sha256 := sinkOk_closed, sha512 := sinkOk_closed
    blake2s := sinkOk_closed, poly1305 := sinkOk_closed, hmac := sinkOk_closed }

/-- A passed key expansion has a key of a valid length. -/
theorem keyLen_of_passed (h : firstError s.keyExpChecks = none) : (s.input s.keyRegion).length ∈ aesKeyLens := by
  rw [firstError_eq_none] at h
  rw [length_input]
  exact (keyLenCheck_fst s aesKeyLens).mp (h _ (by simp [State.keyExpChecks]))

/-- A passed ADD has an open sink and stays below the length limit. -/
theorem add_of_passed {isOpen tooLong : Bool} (h : firstError (s.addChecks isOpen tooLong) = none) :
    isOpen = true ∧ tooLong = false := by
  rw [firstError_eq_none] at h
  have hopen := h (!isOpen, .sinkNotOpen) (by simp [State.addChecks])
  have hlong := h (tooLong, .invalidArgument) (by simp [State.addChecks])
  exact ⟨by simpa using hopen, hlong⟩

/-- The internal writes of a command whose checks passed keep the invariant. -/
theorem internalWrite_inv (hs : s.Inv) {i : Instr} (h : firstError (s.checks i) = none) : (s.internalWrite i).Inv := by
  have hsrc : (s.input s.srcRegion).length = s.snap.srcLen.toNat := length_input s _
  cases i
  case zeroize => exact zeroize_inv hs
  case ctCompare => exact inv_with_eqFlag hs _
  case aesKeyexpEnc =>
    refine inv_with_kse hs (load_wf ?_)
    rw [used_load_roundsOf (keyLen_of_passed h), length_keyExpansion]
  case aesKeyexpDec =>
    refine inv_with_ksd hs (load_wf ?_)
    rw [used_load_roundsOf (keyLen_of_passed h), length_decSchedule]
  case poly1305Init => exact inv_with_poly1305 hs (polyWf_polyInit _)
  case poly1305Add =>
    have ho : s.poly1305.isOpen = true := by
      have := (firstError_eq_none _).mp h (!s.poly1305.isOpen, .sinkNotOpen) (by simp [State.checks])
      simpa using this
    exact inv_with_poly1305 hs (polyWf_polyAdd _ (wf_of_sinkOk hs.poly1305 ho))
  case poly1305Close => exact inv_with_poly1305 hs sinkOk_closed
  case sha256Init => exact inv_with_sha256 hs sha2Wf_sha256Init
  case sha256Add =>
    obtain ⟨ho, hl⟩ := add_of_passed h
    refine inv_with_sha256 hs (sha2Wf_sha2Add comp256 (wf_of_sinkOk hs.sha256 ho) ?_)
    simpa [sha256TooLong, hsrc] using hl
  case sha256Close => exact inv_with_sha256 hs sinkOk_closed
  case sha512Init => exact inv_with_sha512 hs sha2Wf_sha512Init
  case sha512Add =>
    obtain ⟨ho, hl⟩ := add_of_passed h
    refine inv_with_sha512 hs (sha2Wf_sha2Add comp512 (wf_of_sinkOk hs.sha512 ho) ?_)
    simpa [sha512TooLong, hsrc] using hl
  case sha512Close => exact inv_with_sha512 hs sinkOk_closed
  case blake2sInit => exact inv_with_blake2s hs blake2sWf_blake2sInit
  case blake2sAdd =>
    obtain ⟨ho, hl⟩ := add_of_passed h
    refine inv_with_blake2s hs (blake2sWf_blake2sAdd (wf_of_sinkOk hs.blake2s ho) ?_)
    simpa [blake2sTooLong, hsrc] using hl
  case blake2sClose => exact inv_with_blake2s hs sinkOk_closed
  case hmacInitSha256 | hmacInitSha512 | hmacInitBlake2s => exact inv_with_hmac hs (hmacWf_hmacInit _ _)
  case hmacAdd =>
    obtain ⟨ho, hl⟩ := add_of_passed h
    exact inv_with_hmac hs (hmacWf_add (wf_of_sinkOk hs.hmac ho) (by rwa [hsrc]))
  case hmacClose => exact inv_with_hmac hs sinkOk_closed
  all_goals exact hs

/-- A command keeps the invariant, however it completes. -/
theorem exec_inv (hs : s.Inv) {i : Instr} {t : State} (h : exec i s = .next t) : t.Inv := by
  cases exec_completes h with
  | fails e he => exact raise_inv hs he
  | finishes hpass => exact finish_inv (internalWrite_inv hs hpass) 0
  | outputs hpass out hfit hlen =>
    refine output_inv (internalWrite_inv hs hpass) ?_
    rw [internalWrite_dstRegion, internalWrite_params]
    omega
  | seals hpass hw c t hfit htag hlen =>
    have hc : (s.store s.dstRegion.addr c).Inv := store_inv hs (by omega)
    exact finish_inv (store_inv hc htag) c.length

/-! The host's accesses. -/

theorem refuseAccess_inv (hs : s.Inv) : s.refuseAccess.Inv := { hs with }

theorem afterBusyRead_inv (hs : s.Inv) (w : Width) (off : Nat) : (s.afterBusyRead w off).Inv := { hs with }

/-- A STATUS write clears bits only, so no rule about DONE, ERR or the code can break (R34). -/
theorem writeStatus_inv (hs : s.Inv) (v : Word) : (s.writeStatus v).Inv := by
  have hphase := hs.phase
  have hresult := hs.result
  refine { hs with phase := ?_, result := ?_ }
  · cases hp : s.phase with
    | idle => simp [State.phaseOk, hp]
    | busy snap left =>
      simp only [State.phaseOk, hp, State.writeStatus, Bool.and_eq_true, Bool.not_eq_true'] at hphase ⊢
      obtain ⟨⟨hsnap, hdone⟩, herr⟩ := hphase
      exact ⟨⟨hsnap, by simp [hdone]⟩, by simp [herr]⟩
  · simp only [State.resultOk, State.writeStatus, Bool.and_eq_true] at hresult ⊢
    obtain ⟨hcode, hlen⟩ := hresult
    exact ⟨by cases he : s.err <;> simp_all, hlen⟩

theorem softReset_inv (hs : s.Inv) : s.softReset.Inv :=
  { powerOn_inv hs.params hs.dmem with }

/-- A CTRL write resets or sets IRQ_EN (R32). -/
theorem writeCtrl_inv (hs : s.Inv) (v : Word) : (s.writeCtrl v).Inv := by
  unfold State.writeCtrl
  split
  · exact softReset_inv hs
  · exact { hs with }

/-- An accepted CMD write takes the snapshot and clears DONE and ERR (R36, R59). -/
theorem accept_inv (hs : s.Inv) (v : Word) : (s.accept v).Inv := by
  have hresult := hs.result
  simp only [State.resultOk, Bool.and_eq_true] at hresult
  obtain ⟨-, hlen⟩ := hresult
  exact { hs with phase := by simp [State.phaseOk], result := by simpa [State.resultOk] using hlen }

/-- An operand register is written while IDLE only, when there is no snapshot to agree with. -/
theorem setOps_inv (hs : s.Inv) (hidle : s.phase = .idle) (o : OperandRegs) : { s with ops := o }.Inv :=
  { hs with phase := by simp [State.phaseOk, hidle] }

theorem hostWrite_inv (hs : s.Inv) (w : Width) (off : Nat) (v : Word) : (s.hostWrite w off v).Inv := by
  rcases hostWrite_cases s w off v with h | h | ⟨-, -, h⟩ | h | ⟨-, h⟩ | ⟨hb, r, h⟩ | ⟨-, hfit, h⟩ <;> rw [h]
  · exact hs
  · exact refuseAccess_inv hs
  · exact writeCtrl_inv hs v
  · exact writeStatus_inv hs v
  · exact accept_inv hs v
  · exact setOps_inv hs (s.not_busy_iff.mp hb) _
  · exact store_inv hs (by rwa [length_toLe])

theorem hostRead_inv (hs : s.Inv) (w : Width) (off : Nat) : (s.hostRead w off).2.Inv := by
  rcases hostRead_cases s w off with h | h | ⟨-, h⟩ <;> rw [h]
  · exact hs
  · exact refuseAccess_inv hs
  · exact afterBusyRead_inv hs w off

/-- A turn of the host is one access at most, and the invariant does not speak of the host's own fields. -/
theorem hostTurn_inv (hs : s.Inv) : s.hostTurn.Inv := by
  have htail : { s with host := s.host.tail }.Inv := { hs with }
  obtain ⟨t, ht, host, data, failed, h⟩ := hostTurn_cases s
  have hinv : t.Inv := by
    rcases ht with rfl | ⟨w, off, rfl⟩ | ⟨w, off, v, rfl⟩
    · exact hs
    · exact hostRead_inv htail w off
    · exact hostWrite_inv htail w off v
  rw [h]
  exact { hinv with }

/-- A turn of the host while a command runs (70_reset_and_hazards.md R550). -/
theorem pending_inv (hs : s.Inv) {snap : Snapshot} {left : Nat} (hp : s.phase = .busy snap (left + 1)) :
    (s.pending snap left).Inv := by
  have hphase := hs.phase
  simp only [State.phaseOk, hp] at hphase
  exact hostTurn_inv (s := { s with phase := .busy snap left }) { hs with phase := hphase }

/-- A completion keeps the invariant, also that of an illegal value. -/
theorem complete_inv (hs : s.Inv) {cmd : Word} {t : State} (h : s.complete cmd = .next t) : t.Inv := by
  rcases complete_cases s cmd with ⟨i, -, hc⟩ | ⟨e, -, hc⟩ <;> rw [hc] at h
  · exact exec_inv hs h
  · obtain rfl := Host.Outcome.next.inj h
    exact raise_inv hs (by decide)

end Invariant

/-- Settles O48: a step is a completion or a turn of the host, and each keeps the invariant. -/
theorem stepKeepsTheInvariant : Obligations.StepKeepsTheInvariant := by
  intro s t hs h
  rcases hp : s.phase with _ | ⟨snap, _ | left⟩
  · rw [step_idle s hp] at h
    obtain rfl := Host.Outcome.next.inj h
    exact hostTurn_inv hs
  · rw [step_complete s snap hp] at h
    exact complete_inv hs h
  · rw [step_pending s snap left hp] at h
    obtain rfl := Host.Outcome.next.inj h
    exact pending_inv hs hp

/-- Settles O49: `State.reset` is the power-on state of the default parameters with nothing listed in DMEM. -/
theorem resetMeetsTheInvariant : Obligations.ResetMeetsTheInvariant :=
  ⟨powerOn_inv rfl rfl, fun _ _ hp hm => powerOn_inv hp hm⟩

end Sys2Proof.Machine

namespace Sys2Proof.Machine

/-! ## Accesses to the register map, by offset -/

/-- A 32-bit aligned access below the DMEM window has the form R52 asks for. -/
theorem regAccessOk_w32 {off : Nat} (h : off % 4 = 0) : regAccessOk .w32 off = true := by
  simp [regAccessOk, h]

/-- A 32-bit read of a register returns its value and changes nothing (R30). -/
theorem hostRead_reg (s : State) {off : Nat} {r : Reg} (hoff : off < dmemBase) (h4 : off % 4 = 0)
    (hr : Reg.ofOffset off = some r) : s.hostRead .w32 off = (s.readReg r, s) := by
  simp [State.hostRead, hoff, regAccessOk_w32 h4, hr]

/-- A 32-bit write of a register does what the register's rule says. -/
theorem hostWrite_reg (s : State) {off : Nat} {r : Reg} (v : Word) (hoff : off < dmemBase) (h4 : off % 4 = 0)
    (hr : Reg.ofOffset off = some r) : s.hostWrite .w32 off v = s.writeReg r v := by
  simp [State.hostWrite, hoff, regAccessOk_w32 h4, hr]

/-- An access below the window that is not 32-bit and aligned is refused (R52). -/
theorem access_illFormed (s : State) {w : Width} {off : Nat} (v : Word) (hoff : off < dmemBase)
    (hw : ¬ (w = .w32 ∧ off % 4 = 0)) :
    s.hostRead w off = (0, s.refuseAccess) ∧ s.hostWrite w off v = s.refuseAccess := by
  have hbad : ¬ regAccessOk w off = true := by simpa [regAccessOk] using hw
  rw [State.hostRead, State.hostWrite, if_pos hoff, if_pos hoff, if_neg hbad, if_neg hbad]
  exact ⟨rfl, rfl⟩

/-- A reserved offset below the window reads 0 and ignores writes (R50). -/
theorem access_reserved (s : State) {off : Nat} (v : Word) (hoff : off < dmemBase) (h4 : off % 4 = 0)
    (hr : Reg.ofOffset off = none) : s.hostRead .w32 off = (0, s) ∧ s.hostWrite .w32 off v = s := by
  simp [State.hostRead, State.hostWrite, hoff, regAccessOk_w32 h4, hr]

/-- So does every offset past the window (R50, R51). -/
theorem access_pastWindow (s : State) (w : Width) {off : Nat} (v : Word) (hoff : dmemBase + s.params.dmemSize ≤ off) :
    s.hostRead w off = (0, s) ∧ s.hostWrite w off v = s := by
  have hlow : ¬ off < dmemBase := by omega
  have hwin : ¬ s.inWindow off = true := by simpa [State.inWindow] using fun _ => hoff
  rw [State.hostRead, State.hostWrite, if_neg hlow, if_neg hlow, if_neg hwin, if_neg hwin]
  exact ⟨rfl, rfl⟩

/-- While IDLE a misaligned DMEM access, or one that passes the end, is refused (20_memory.md R104). -/
theorem access_dmem_illFormed (s : State) {w : Width} {off : Nat} (v : Word) (hidle : s.phase = .idle)
    (hlo : dmemBase ≤ off) (hhi : off < dmemBase + s.params.dmemSize)
    (hbad : off % w.bytes ≠ 0 ∨ dmemBase + s.params.dmemSize < off + w.bytes) :
    s.hostRead w off = (0, s.refuseAccess) ∧ s.hostWrite w off v = s.refuseAccess := by
  have hlow : ¬ off < dmemBase := by omega
  have hwin : s.inWindow off = true := decide_eq_true ⟨hlo, hhi⟩
  have hb : ¬ s.busy = true := by simp [s.not_busy_iff.mpr hidle]
  have hform : ¬ s.dmemAccessOk w off = true := by
    simp only [State.dmemAccessOk, decide_eq_true_eq]
    omega
  rw [State.hostRead, State.hostWrite, if_neg hlow, if_neg hlow, if_pos hwin, if_pos hwin, if_neg hb, if_neg hb,
    if_neg hform, if_neg hform]
  exact ⟨rfl, rfl⟩

/-- Between the named registers and the schedule windows, and past those, every offset is reserved. -/
theorem ofOffset_reserved {off : Nat}
    (h : (0x05C ≤ off ∧ off ≤ 0x0FF) ∨ (0x1F0 ≤ off ∧ off ≤ 0x1FF) ∨ (0x2F0 ≤ off ∧ off ≤ 0xFFFF)) :
    Reg.ofOffset off = none := by
  rw [Reg.ofOffset, if_neg (by omega), if_neg (by omega), if_neg (by omega)]

/-- The registers a host write never changes (R52). -/
def Reg.readOnly : Reg → Bool
  | .id | .version | .errcode | .outLen | .ksRounds | .kse _ | .ksd _ => true
  | .ctrl | .status | .cmd | .op _ => false

/-- The offsets of the read-only registers. -/
theorem ofOffset_readOnly {off : Nat}
    (h : off ∈ [0x000, 0x004, 0x010, 0x018, 0x01C] ∨
      (off % 4 = 0 ∧ ((0x100 ≤ off ∧ off < 0x1F0) ∨ (0x200 ≤ off ∧ off < 0x2F0)))) :
    off < dmemBase ∧ off % 4 = 0 ∧ ∃ r, Reg.ofOffset off = some r ∧ r.readOnly = true := by
  rcases h with hmem | ⟨h4, hkse | hksd⟩
  · have named : ∀ o ∈ [0x000, 0x004, 0x010, 0x018, 0x01C],
        o < dmemBase ∧ o % 4 = 0 ∧ (Reg.ofOffset o).any Reg.readOnly = true := by decide
    simpa [Option.any_eq_true] using named off hmem
  · refine ⟨hkse.2.trans (by decide), h4, .kse ((off - 0x100) / 4), ?_, rfl⟩
    rw [Reg.ofOffset, if_neg (by omega), if_pos hkse]
  · refine ⟨hksd.2.trans (by decide), h4, .ksd ((off - 0x200) / 4), ?_, rfl⟩
    rw [Reg.ofOffset, if_neg (by omega), if_neg (by omega), if_pos hksd]

/-- A write to a read-only register is ignored, and refused while BUSY (R52, 92_eei_decisions.md D46). -/
theorem writeReg_readOnly (s : State) {r : Reg} (hr : r.readOnly = true) (v : Word) :
    s.writeReg r v = if s.busy then s.refuseAccess else s := by
  cases r
  case ctrl | status | cmd | op => cases hr
  all_goals rfl

theorem busy_of_not_idle {s : State} (h : s.phase ≠ .idle) : s.busy = true := by
  cases hb : s.busy with
  | true => rfl
  | false => exact absurd (s.not_busy_iff.mp hb) h

/-- Settles O57, clause by clause: form first, then the register map, then the window. -/
theorem illFormedAndReservedAccesses : Obligations.IllFormedAndReservedAccesses := by
  intro s off v
  refine ⟨fun w hoff hw => access_illFormed s v hoff hw,
    fun h4 hres => access_reserved s v (show off < 0x10000 by omega) h4 (ofOffset_reserved hres),
    fun w hoff => access_pastWindow s w v hoff,
    fun w hidle hlo hhi hbad => access_dmem_illFormed s v hidle hlo hhi hbad, fun hro => ?_⟩
  obtain ⟨hoff, h4, r, hr, hreg⟩ := ofOffset_readOnly hro
  rw [hostWrite_reg s v hoff h4 hr, writeReg_readOnly s hreg]
  exact ⟨fun hidle => by simp [s.not_busy_iff.mpr hidle],
    fun hbusy => by simp [busy_of_not_idle hbusy, State.refuseAccess]⟩

/-! ## STATUS -/

/-- Bit `j` of a flag at position `i`. -/
theorem getLsbD_flagBit (b : Bool) {i : Nat} (hi : i < 32) (j : Nat) :
    (flagBit b i).getLsbD j = (b && decide (i = j)) := by
  cases b with
  | false => simp [flagBit]
  | true =>
    simp only [flagBit, if_true, BitVec.getLsbD_ofNat, Nat.testBit_two_pow, Bool.true_and]
    by_cases hij : i = j <;> simp [hij]
    omega

/-- The bits of STATUS (R33). -/
theorem getLsbD_statusWord (s : State) (j : Nat) :
    s.statusWord.getLsbD j =
      (s.busy && decide (0 = j) || s.done && decide (1 = j) || s.err && decide (2 = j) || s.eqFlag && decide (3 = j) ||
        s.kse.valid && decide (4 = j) || s.ksd.valid && decide (5 = j) || s.werr && decide (6 = j) ||
        s.sha256.isOpen && decide (8 = j) || s.sha512.isOpen && decide (9 = j) ||
        s.blake2s.isOpen && decide (10 = j) || s.poly1305.isOpen && decide (11 = j) ||
        s.hmac.isOpen && decide (12 = j)) := by
  simp only [State.statusWord, BitVec.getLsbD_or]
  iterate 12 rw [getLsbD_flagBit _ (by decide)]

theorem hostRead_status (s : State) : s.hostRead .w32 0x00C = (s.statusWord, s) :=
  hostRead_reg s (off := 0x00C) (r := .status) (by decide) (by decide) rfl

theorem busy_iff_not_idle (s : State) : s.busy = true ↔ s.phase ≠ .idle :=
  ⟨fun hb hidle => by simp [s.not_busy_iff.mpr hidle] at hb, busy_of_not_idle⟩

theorem valid_iff (k : Schedule) : k.valid = true ↔ k.nr.nr ≠ 0 := by simp [Schedule.valid]

/-- Settles O52, from the bits of the status word. -/
theorem statusReadsItsBits : Obligations.StatusReadsItsBits := by
  intro s
  have hhigh (i : Nat) (hi : 13 ≤ i) : s.statusWord.getLsbD i = false := by
    have hne : ∀ k < 13, decide (k = i) = false := fun k hk => decide_eq_false (by omega)
    simp [getLsbD_statusWord, hne]
  simp only [hostRead_status, ← busy_iff_not_idle, ← valid_iff]
  refine ⟨trivial, ?_, ?_, ?_, ?_, ?_, ?_, ?_, ?_, ?_, ?_, ?_, ?_, ?_, hhigh⟩ <;>
    (rw [getLsbD_statusWord]; simp)

/-- Settles O53: STATUS is at 0x00C, and clearing by ones is `and not`. -/
theorem statusWriteClearsByOnes : Obligations.StatusWriteClearsByOnes := by
  intro s v
  have hclear : ∀ b c : Bool, (b && !c) = if c then false else b := by decide
  rw [hostWrite_reg s (off := 0x00C) (r := .status) v (by decide) (by decide) rfl, State.writeReg, State.writeStatus]
  simp only [hclear]

/-! ## CMD and the operand registers -/

/-- An operand register after a write of one of them. -/
theorem get_set (o : OperandRegs) (r r' : OpReg) (v : Word) :
    (o.set r v).get r' = if r' = r then v else o.get r' := by
  cases r <;> cases r' <;> rfl

/-- Each aligned offset from 0x020 to 0x058 is that of an operand register. -/
theorem ofOffset_op {off : Nat} (h4 : off % 4 = 0) (hlo : 0x020 ≤ off) (hhi : off ≤ 0x058) :
    ∃ r, Reg.ofOffset off = some (.op r) ∧ r.offset = off := by
  obtain ⟨k, rfl⟩ : ∃ k, off = 4 * k := ⟨off / 4, by omega⟩
  have hk : k < 23 := by omega
  have h8 : 8 ≤ k := by omega
  interval_cases k <;> exact ⟨_, rfl, rfl⟩

/-- While IDLE a write of an operand register sets it (R39 to R49). -/
theorem writeReg_op_idle {s : State} (hidle : s.phase = .idle) (r : OpReg) (v : Word) :
    s.writeReg (.op r) v = { s with ops := s.ops.set r v } := by
  simp [State.writeReg, s.not_busy_iff.mpr hidle]

/-- The register map finds each operand register at its offset. -/
theorem ofOffset_opOffset (r : OpReg) : Reg.ofOffset r.offset = some (.op r) := by cases r <;> rfl

theorem opOffset_aligned (r : OpReg) : r.offset < dmemBase ∧ r.offset % 4 = 0 := by cases r <;> decide

/-- While IDLE a 32-bit write at the offset of an operand register sets that register. -/
theorem hostWrite_op_idle {s : State} (hidle : s.phase = .idle) (r : OpReg) (v : Word) :
    s.hostWrite .w32 r.offset v = { s with ops := s.ops.set r v } := by
  obtain ⟨hlow, h4⟩ := opOffset_aligned r
  rw [hostWrite_reg s v hlow h4 (ofOffset_opOffset r), writeReg_op_idle hidle]

/-- Settles O54, from the rules of CMD and of an operand register. -/
theorem cmdWriteStartsOrIsDropped : Obligations.CmdWriteStartsOrIsDropped := by
  intro s v
  have hcmd : s.hostWrite .w32 0x014 v = s.writeReg .cmd v := hostWrite_reg s v (by decide) (by decide) rfl
  have hread : s.hostRead .w32 0x014 = (s.readReg .cmd, s) := hostRead_reg s (by decide) (by decide) rfl
  refine ⟨fun hidle => ⟨Config.cmdLatency s.draws, ?_⟩, fun hbusy => ?_, hread,
    fun hidle => ?_, fun off o hidle h4 hlo hhi ho4 holo hohi => ?_⟩
  · rw [hcmd, State.writeReg, s.not_busy_iff.mpr hidle]
    rfl
  · rw [hcmd, State.writeReg, busy_of_not_idle hbusy]
    rfl
  · have hop (r : OpReg) := hostWrite_op_idle hidle r v
    exact ⟨hop .keyAddr, hop .keyLen, hop .nonceAddr, hop .nonceLen, hop .aadAddr, hop .aadLen, hop .srcAddr,
      hop .srcLen, hop .dstAddr, hop .dstLen, hop .tagAddr, hop .ksiLo, hop .ksiHi, hop .arg, hop .iter⟩
  · obtain ⟨r, hr, hroff⟩ := ofOffset_op h4 hlo hhi
    obtain ⟨r', hr', hroff'⟩ := ofOffset_op ho4 holo hohi
    have hlt : off < dmemBase := show off < 0x10000 by omega
    have hlt' : o < dmemBase := show o < 0x10000 by omega
    have hsame : r' = r ↔ o = off := by
      constructor
      · rintro rfl
        rw [← hroff, ← hroff']
      · rintro rfl
        simpa [hr] using hr'.symm
    rw [hostWrite_reg s v hlt h4 hr, writeReg_op_idle hidle, hostRead_reg _ hlt' ho4 hr', hostRead_reg _ hlt' ho4 hr']
    simp only [State.readReg, get_set, hsame]

/-! ## After a power-on reset -/

/-- STATUS reads 0 after a power-on reset. -/
theorem powerOn_statusWord (p : Params) (m : Memory) : (State.powerOn p m).statusWord = 0 := by
  simp [State.statusWord, flagBit, State.busy, Schedule.valid, State.powerOn, Sink.closed, Schedule.unloaded, Rounds.nr]

/-- Every word of an unloaded schedule is 0 (R53). -/
theorem getD_unloaded {i : Nat} (hi : i < 60) : Schedule.unloaded.words.toList.getD i 0 = 0 := by
  have hwords : Schedule.unloaded.words.toList = List.replicate 60 0 := rfl
  rw [hwords, List.getD_replicate _ hi]

/-- Settles O50: each register and context at the value R70 gives it. -/
theorem powerOnValues : Obligations.PowerOnValues := by
  intro p m
  have hops (r : OpReg) : OperandRegs.zero.get r = 0 := by cases r <;> rfl
  exact ⟨rfl, rfl, rfl, powerOn_statusWord p m, rfl, rfl, rfl, rfl, hops,
    fun i hi => ⟨getD_unloaded hi, getD_unloaded hi⟩, rfl, rfl, rfl, rfl, rfl, rfl, rfl, rfl⟩

end Sys2Proof.Machine

namespace Sys2Proof.Machine

/-! ## What a command writes to DMEM -/

@[simp] theorem internalWrite_dmem (s : State) (i : Instr) : (s.internalWrite i).dmem = s.dmem :=
  (congrArg State.dmem (internalWrite_frame s i)).trans rfl

/-- A sealing command stores the ciphertext at DST and then the tag at TAG (R365). -/
@[simp] theorem seal_dmem (s : State) (c t : Bytes) :
    (s.seal c t).dmem = (s.dmem.writeBytes s.dstRegion.addr c).writeBytes s.tagRegion.addr t := rfl

@[simp] theorem seal_outLen (s : State) (c t : Bytes) : (s.seal c t).outLen = BitVec.ofNat 32 c.length := rfl

@[simp] theorem seal_err (s : State) (c t : Bytes) : (s.seal c t).err = false := rfl

/-- Outside the written range every byte of DMEM keeps its value. -/
theorem read_writeBytes_outside {m : Memory} (h : Memory.wfFrom 0 m = true) {a c : Nat} {v : Bytes}
    (hc : ¬ (a ≤ c ∧ c < a + v.length)) : (m.writeBytes a v).read c = m.read c := by
  rw [Memory.read_writeBytes h, if_neg hc]

/-- A length bounded by a register fits in one. -/
theorem toNat_ofNat_of_le {n : Nat} {w : Word} (h : n ≤ w.toNat) : (BitVec.ofNat 32 n).toNat = n := by
  rw [BitVec.toNat_ofNat, Nat.mod_eq_of_lt (h.trans_lt w.isLt)]

/-- An AEAD encryption that succeeds puts at most DST_LEN bytes at DST and a tag of 16 bytes at TAG (R365). -/
theorem seal_of_exec {i : Instr} {s t : State} (hw : writesTag i = true) (h : exec i s = .next t)
    (hok : t.err = false) :
    ∃ c tag, c.length ≤ s.snap.dstLen.toNat ∧ tag.length = 16 ∧ t = s.seal c tag := by
  rw [exec_eq] at h
  obtain rfl := Host.Outcome.next.inj h
  unfold State.outcome at hok ⊢
  split at hok
  · cases hok
  · next hpass =>
    have encrypts (hc : s.capacityCheck s.snap.srcLen.toNat ∈ s.checks i) (k n : Bytes) :
        ∃ c tag, c.length ≤ s.snap.dstLen.toNat ∧ tag.length = 16 ∧ s.aeadEncrypt k n = s.seal c tag :=
      ⟨_, _, by simpa [State.srcRegion] using capacity_of_passed hpass hc, length_aeadTag _ _ _ _, rfl⟩
    cases i
    case c20p1305Enc | xc20p1305Enc => exact encrypts (by simp [State.checks, State.aeadChecks]) _ _
    all_goals cases hw

/-- Settles O46: DMEM is written by the output at DST and by the tag of a sealing command only. -/
theorem commandsWriteOnlyTheirOutputs : Obligations.CommandsWriteOnlyTheirOutputs := by
  intro i s t hwf h
  have hm : Memory.wfFrom 0 s.dmem = true := wfFrom_of_wf hwf
  cases exec_completes h with
  | fails e he => simp
  | finishes hpass => simp
  | outputs hpass out hfit hlen =>
    simp only [State.output_outLen, State.output_dmem, internalWrite_dmem, internalWrite_dstRegion,
      toNat_ofNat_of_le hlen]
    exact ⟨hlen, fun a hdst _ => read_writeBytes_outside hm hdst⟩
  | seals hpass hw =>
    obtain ⟨c, tag, hlen, htag, hseal⟩ := seal_of_exec hw h rfl
    rw [hseal]
    simp only [seal_outLen, seal_dmem, seal_err, toNat_ofNat_of_le hlen, hw, true_and]
    refine ⟨hlen, fun a hdst htagOut => ?_⟩
    exact (read_writeBytes_outside (Memory.wfFrom_writeBytes hm _ c) (htag ▸ htagOut)).trans
      (read_writeBytes_outside hm hdst)

end Sys2Proof.Machine

namespace Sys2Proof.Machine

/-! ## What a turn of the host leaves alone -/

/-- `t` has the internal state, the results and the parameters of `s`, and while `s` is BUSY also its DMEM, operand
registers, CMD and phase (20_memory.md R101, R120). -/
def KeepsInternal (s t : State) : Prop :=
  t.kse = s.kse ∧ t.ksd = s.ksd ∧ t.sha256 = s.sha256 ∧ t.sha512 = s.sha512 ∧ t.blake2s = s.blake2s ∧
  t.poly1305 = s.poly1305 ∧ t.hmac = s.hmac ∧ t.eqFlag = s.eqFlag ∧ t.errcode = s.errcode ∧ t.outLen = s.outLen ∧
  t.params = s.params ∧
  (s.busy = true → t.dmem = s.dmem ∧ t.ops = s.ops ∧ t.cmd = s.cmd ∧ t.phase = s.phase)

theorem keepsInternal_refuseAccess (s : State) : KeepsInternal s s.refuseAccess := by simp [KeepsInternal]

/-- A host read changes WERR and the draw counter at most (R104, R522). -/
theorem hostRead_keepsInternal (s : State) (w : Width) (off : Nat) : KeepsInternal s (s.hostRead w off).2 := by
  rcases hostRead_cases s w off with h | h | ⟨-, h⟩ <;> rw [h]
  · simp [KeepsInternal]
  · exact keepsInternal_refuseAccess s
  · simp [KeepsInternal]

/-- A CTRL write without bit 0 sets IRQ_EN only (R32). -/
theorem writeCtrl_cases (s : State) (v : Word) :
    (v.getLsbD 0 = true ∧ s.writeCtrl v = s.softReset) ∨ s.writeCtrl v = { s with irqEn := v.getLsbD 1 } := by
  unfold State.writeCtrl
  split
  · next hbit => exact .inl ⟨hbit, rfl⟩
  · exact .inr rfl

/-- A host write leaves the internal state, or is the soft reset: a 32-bit CTRL write with bit 0 set (R521). -/
theorem hostWrite_keepsInternal_or_reset (s : State) (w : Width) (off : Nat) (v : Word) :
    KeepsInternal s (s.hostWrite w off v) ∨
      (w = .w32 ∧ off = 0x008 ∧ v.getLsbD 0 = true ∧ s.hostWrite w off v = s.softReset) := by
  rcases hostWrite_cases s w off v with h | h | ⟨hw, hoff, h⟩ | h | ⟨hidle, h⟩ | ⟨hidle, r, h⟩ | ⟨hidle, -, h⟩
  · exact .inl (by simp [h, KeepsInternal])
  · exact .inl (h ▸ keepsInternal_refuseAccess s)
  · rcases writeCtrl_cases s v with ⟨hbit, hreset⟩ | hirq
    · exact .inr ⟨hw, hoff, hbit, h.trans hreset⟩
    · exact .inl (by simp [h, hirq, KeepsInternal])
  · exact .inl (by simp [h, KeepsInternal])
  · exact .inl (by simp [h, hidle, KeepsInternal])
  · exact .inl (by simp [h, hidle, KeepsInternal])
  · exact .inl (by simp [h, hidle, KeepsInternal])

/-- A turn of the host leaves the internal state, or its agenda begins with the write that resets the core. -/
theorem hostTurn_keepsInternal_or_reset (s : State) :
    KeepsInternal s s.hostTurn ∨
      ∃ v rest, s.host = .write .w32 0x008 v :: rest ∧ v.getLsbD 0 = true ∧
        s.hostTurn = { s with host := rest }.softReset := by
  cases hagenda : s.host with
  | nil =>
    rw [hostTurn_nil s hagenda]
    exact .inl (by simp [KeepsInternal])
  | cons op rest =>
    rw [hostTurn_cons s op rest hagenda]
    have hread (w : Width) (off : Nat) : KeepsInternal s ({ s with host := rest }.hostRead w off).2 :=
      hostRead_keepsInternal { s with host := rest } w off
    cases op with
    | read w off => exact .inl (hread w off)
    | expect w off v => exact .inl (hread w off)
    | wait skip =>
      refine .inl ?_
      simp only [State.hostDo]
      split
      · exact hread .w32 Reg.status.offset
      · split <;> exact hread .w32 Reg.status.offset
    | write w off v =>
      rcases hostWrite_keepsInternal_or_reset { s with host := rest } w off v with
        hkeep | ⟨rfl, rfl, hbit, hreset⟩
      · exact .inl hkeep
      · exact .inr ⟨v, rest, rfl, hbit, hreset⟩

/-- Settles O47: a turn is one access at most, and only the soft reset touches the internal state. -/
theorem hostTurnsLeaveInternalState : Obligations.HostTurnsLeaveInternalState := by
  intro s
  rcases hostTurn_keepsInternal_or_reset s with hkeep | ⟨v, rest, hagenda, hbit, hreset⟩
  · exact .inl hkeep
  · rw [hreset]
    exact .inr ⟨⟨v, rest, hagenda, hbit⟩, softReset_atReset { s with host := rest }, rfl⟩

end Sys2Proof.Machine

namespace Sys2Proof.Machine

/-! ## Little-endian accesses to DMEM -/

/-- Digit j of a little-endian integer is its byte j, and 0 past its end (R9). -/
theorem leInt_digit (b : Bytes) (j : Nat) : leInt b / 256 ^ j % 256 = (b.getD j 0).toNat := by
  induction b generalizing j with
  | nil => simp [leInt]
  | cons x b ih =>
    have hx := x.isLt
    cases j with
    | zero =>
      simp only [leInt, pow_zero, Nat.div_one, List.getD_cons_zero]
      omega
    | succ j =>
      have hdiv : (x.toNat + 256 * leInt b) / 256 = leInt b := by omega
      rw [leInt, pow_succ', ← Nat.div_div_eq_div_mul, hdiv, ih, List.getD_cons_succ]

/-- Byte j of a word, counted from the least significant. -/
theorem toNat_extractByte (v : Word) (j : Nat) : (v.extractLsb' (8 * j) 8).toNat = v.toNat / 256 ^ j % 256 := by
  rw [BitVec.extractLsb'_toNat, Nat.shiftRight_eq_div_pow, pow_mul]
  rfl

/-- Bits 8j up of a word read little-endian from at most four bytes are byte j, and 0 above them. -/
theorem extractLsb'_ofNat_leInt {b : Bytes} (hb : b.length ≤ 4) (j : Nat) :
    (BitVec.ofNat 32 (leInt b)).extractLsb' (8 * j) 8 = b.getD j 0 := by
  have hlt : leInt b < 2 ^ 32 := (leInt_lt b).trans_le (Nat.pow_le_pow_right (by decide) hb)
  apply BitVec.eq_of_toNat_eq
  rw [toNat_extractByte, BitVec.toNat_ofNat, Nat.mod_eq_of_lt hlt, leInt_digit]

/-- Byte j of a word written little-endian is its bits 8j up (R9). -/
theorem getD_toLe (v : Word) {n j : Nat} (hj : j < n) : (toLe v.toNat n).getD j 0 = v.extractLsb' (8 * j) 8 := by
  have hsplit : (256 : Nat) ^ n = 256 ^ j * (256 * 256 ^ (n - j - 1)) := by
    rw [← pow_succ', ← pow_add]
    congr 1
    omega
  apply BitVec.eq_of_toNat_eq
  rw [← leInt_digit, leInt_toLe, toNat_extractByte, hsplit, Nat.mod_mul_right_div_self, Nat.mod_mul_right_mod]

theorem Width.bytes_le_four (w : Width) : w.bytes ≤ 4 := by cases w <;> decide

theorem Width.bytes_pos (w : Width) : 0 < w.bytes := by cases w <;> decide

section Window

variable {s : State} {w : Width} {a : Nat} (hidle : s.phase = .idle) (halign : a % w.bytes = 0)
  (hfit : a + w.bytes ≤ s.params.dmemSize)

include halign hfit in
/-- An aligned access inside DMEM has the form R103 asks for. -/
theorem dmemAccessOk_of_aligned : s.dmemAccessOk w (dmemBase + a) = true := by
  have hbase : dmemBase % w.bytes = 0 := by cases w <;> rfl
  refine decide_eq_true ⟨?_, by omega⟩
  rw [Nat.add_mod, hbase, halign, Nat.add_zero, Nat.zero_mod]

include hfit in
/-- It starts inside the window (R51). -/
theorem inWindow_of_fits : s.inWindow (dmemBase + a) = true := by
  have hpos := w.bytes_pos
  exact decide_eq_true ⟨by omega, by omega⟩

include hidle halign hfit

/-- While IDLE an aligned read inside DMEM returns the little-endian integer of its bytes and changes nothing (R103). -/
theorem hostRead_dmem : s.hostRead w (dmemBase + a) = (BitVec.ofNat 32 (leInt (s.dmem.readBytes a w.bytes)), s) := by
  simp [State.hostRead, inWindow_of_fits hfit, dmemAccessOk_of_aligned halign hfit, s.not_busy_iff.mpr hidle]

/-- While IDLE an aligned write inside DMEM stores the low bytes of the value, least significant first (R103). -/
theorem hostWrite_dmem (v : Word) :
    s.hostWrite w (dmemBase + a) v = s.store a (toLe v.toNat w.bytes) := by
  simp [State.hostWrite, inWindow_of_fits hfit, dmemAccessOk_of_aligned halign hfit, s.not_busy_iff.mpr hidle]

end Window

/-- Reading back a little-endian integer of n bytes gives it modulo 2^(8n). -/
theorem leInt_readBytes_writeBytes {m : Memory} (h : Memory.wfFrom 0 m = true) (a v n : Nat) :
    leInt ((m.writeBytes a (toLe v n)).readBytes a n) = v % 2 ^ (8 * n) := by
  have hback := Memory.readBytes_writeBytes h a (toLe v n)
  rw [length_toLe] at hback
  rw [hback, leInt_toLe, pow_mul]
  rfl

/-- Settles O56, from what a read and a write of the window do. -/
theorem dmemWindowIsLittleEndian : Obligations.DmemWindowIsLittleEndian := by
  intro s w a v hidle hwf halign hfit
  have hm : Memory.wfFrom 0 s.dmem = true := wfFrom_of_wf hwf
  have hlen (m : Memory) : (m.readBytes a w.bytes).length ≤ 4 := by simpa using w.bytes_le_four
  have hread : s.hostRead w (0x10000 + a) = _ := hostRead_dmem hidle halign hfit
  rw [hread]
  refine ⟨rfl, fun j hj => ?_, fun j hj => ?_, s.dmem.writeBytes a (toLe v.toNat w.bytes),
    hostWrite_dmem hidle halign hfit v, fun c => ?_, ?_⟩
  · rw [extractLsb'_ofNat_leInt (hlen _), Memory.getD_readBytes _ _ _ _ hj]
  · rw [extractLsb'_ofNat_leInt (hlen _), List.getD_eq_default _ _ (by simpa using hj)]
  · rw [Memory.read_writeBytes hm, length_toLe]
    split
    · next hin => exact getD_toLe v (by omega)
    · rfl
  · have hreread : State.hostRead { s with dmem := s.dmem.writeBytes a (toLe v.toNat w.bytes) } w (0x10000 + a) = _ :=
      hostRead_dmem hidle halign hfit
    rw [hreread, BitVec.toNat_ofNat, leInt_readBytes_writeBytes hm]
    exact Nat.mod_eq_of_lt ((Nat.mod_le _ _).trans_lt v.isLt)

/-! ## The byte orders of commands -/

/-- Four bytes taken little-endian, the last one on top (R9). -/
theorem ofNat_leInt_four (a b c d : Byte) : BitVec.ofNat 32 (leInt [a, b, c, d]) = ofBytes d c b a := by
  have hbyte (j : Nat) := extractLsb'_ofNat_leInt (b := [a, b, c, d]) (by simp) j
  rw [← ofBytes_bytes (BitVec.ofNat 32 _)]
  congr 1
  exacts [hbyte 3, hbyte 2, hbyte 1, hbyte 0]

theorem le32_four (a b c d : Byte) : le32 [a, b, c, d] 0 = ofBytes d c b a := ofNat_leInt_four a b c d

theorem be32_four (a b c d : Byte) : be32 [a, b, c, d] 0 = ofBytes a b c d := ofNat_leInt_four d c b a

/-- The bytes of a word, least significant first (R9). -/
theorem toLe_word (v : Word) : toLe v.toNat 4 = [byte0 v, byte1 v, byte2 v, byte3 v] := by
  refine bytes_ext _ _ (by simp) fun j hj => ?_
  rw [length_toLe] at hj
  rw [getD_toLe v hj]
  interval_cases j <;> rfl

/-- Settles O58: the bytes at the address are those of the value from the least significant up. -/
theorem hostWordSeenByteReversed : Obligations.HostWordSeenByteReversed := by
  intro s a v hidle hwf halign hfit
  have hwrite : s.hostWrite .w32 (0x10000 + a) v = s.store a (toLe v.toNat 4) := hostWrite_dmem hidle halign hfit v
  have hbytes : (s.hostWrite .w32 (0x10000 + a) v).dmem.readBytes a 4 = [byte0 v, byte1 v, byte2 v, byte3 v] := by
    have hback := Memory.readBytes_writeBytes (wfFrom_of_wf hwf) a (toLe v.toNat 4)
    rw [length_toLe] at hback
    rw [hwrite, State.store_dmem, hback, toLe_word]
  rw [hbytes, be32_four, le32_four, ofBytes_bytes]
  exact ⟨rfl, rfl⟩

end Sys2Proof.Machine

namespace Sys2Proof.Laws.Encoding

/-! ## Command words -/

/-- The laws of the single commands, gathered in the table's order. -/
theorem statement_holds (i : Instr) : Statement i := by
  cases i
  exacts [nop, zeroize, ctCompare, aesKeyexpEnc, aesKeyexpDec, aesEncBlock, aesDecBlock, aesCbcEnc, aesCbcDec,
    aesCtrEnc, aesCtrDec, nonceInc, chacha20Block, chacha20Enc, chacha20Dec, hchacha20, xchacha20Enc, xchacha20Dec,
    poly1305Init, poly1305Add, poly1305Close, c20p1305Enc, c20p1305Dec, xc20p1305Enc, xc20p1305Dec, sha256Init,
    sha256Add, sha256Close, sha512Init, sha512Add, sha512Close, blake2sInit, blake2sAdd, blake2sClose,
    hmacInitSha256, hmacInitSha512, hmacInitBlake2s, hmacAdd, hmacClose, pbkdf2Sha256, pbkdf2Sha512, pbkdf2Blake2s]

end Sys2Proof.Laws.Encoding

namespace Sys2Proof

/-- The fields of a word put together are the word (30_encoding.md R141). -/
theorem CmdFields.toWord_ofWord (w : Word) : (CmdFields.ofWord w).toWord = w := by
  simp only [CmdFields.toWord, CmdFields.ofWord]
  rw [BitVec.extractLsb'_append_extractLsb'_eq_extractLsb' (start₂ := 10) (start₁ := 8) (len₁ := 2) rfl,
    BitVec.extractLsb'_append_extractLsb'_eq_extractLsb' (start₂ := 8) (start₁ := 0) (len₁ := 8) rfl]
  exact BitVec.extractLsb'_eq_self

/-- The fields read from a word are the ones it was put together from. -/
theorem CmdFields.ofWord_toWord (f : CmdFields) : CmdFields.ofWord f.toWord = f := by
  obtain ⟨rsv, hsel, opc⟩ := f
  simp only [CmdFields.toWord, CmdFields.ofWord, CmdFields.mk.injEq]
  refine ⟨?_, ?_, BitVec.extractLsb'_append_eq_right⟩
  · exact (BitVec.extractLsb'_append_eq_of_le (by decide)).trans
      ((BitVec.extractLsb'_append_eq_of_le (by decide)).trans BitVec.extractLsb'_eq_self)
  · exact (BitVec.extractLsb'_append_eq_of_le (by decide)).trans BitVec.extractLsb'_append_eq_right

/-- R142 as a condition on the three fields. -/
theorem CmdFields.legal_iff (f : CmdFields) :
    f.legal = true ↔
      f.rsv = 0 ∧ f.opc ∈ assignedOpcodes ∧
        (f.hsel = 0 ∨ ((f.hsel = 1 ∨ f.hsel = 2) ∧ (f.opc = 0x60 ∨ f.opc = 0x64))) := by
  have hselects : ∀ h : BitVec 2, h = 0 ∨ h = 1 ∨ h = 2 ∨ h = 3 := by decide
  simp only [CmdFields.legal, CmdFields.rsvClear, CmdFields.opcAssigned, CmdFields.hselDefined, CmdFields.hselUsed,
    Bool.and_eq_true, Bool.or_eq_true, beq_iff_eq, bne_iff_ne, List.contains_iff_mem, and_assoc, or_assoc]
  rcases hselects f.hsel with h | h | h | h <;> simp [h]

theorem decode_eq_ok_iff (w : Word) (i : Instr) : decode w = .ok i ↔ opcodeTable.lookup w = some i := by
  unfold decode
  cases opcodeTable.lookup w <;> simp

/-- Each row of the table is the word that its command encodes to (R143, R162). -/
theorem opcodeTable_encode : ∀ row ∈ opcodeTable, row.1 = encode row.2 := by decide

/-- A word that decodes to a command is that command's word. -/
theorem eq_encode_of_decode {w : Word} {i : Instr} (h : decode w = .ok i) : w = encode i := by
  rw [decode_eq_ok_iff, List.lookup_eq_some_iff] at h
  obtain ⟨before, after, htable, -⟩ := h
  exact opcodeTable_encode (w, i) (by simp [htable])

/-- Legal fields stand in a row of the table: of the choices of HSEL and OPC there are finitely many. -/
theorem lookup_of_legal {f : CmdFields} (h : f.legal = true) : ∃ i, opcodeTable.lookup f.toWord = some i := by
  have hrows : ∀ opc ∈ assignedOpcodes, ∀ hsel : BitVec 2, (CmdFields.mk 0 hsel opc).legal = true →
      (opcodeTable.lookup (CmdFields.mk 0 hsel opc).toWord).isSome = true := by decide
  obtain ⟨hrsv, hopc, -⟩ := f.legal_iff.mp h
  obtain ⟨rsv, hsel, opc⟩ := f
  obtain rfl : rsv = 0 := hrsv
  exact Option.isSome_iff_exists.mp (hrows opc hopc hsel h)

/-- The words that decode to a command are the legal ones (R142). -/
theorem decodes_iff_legal (w : Word) : (∃ i, decode w = .ok i) ↔ (CmdFields.ofWord w).legal = true := by
  constructor
  · rintro ⟨i, hi⟩
    obtain ⟨hlegal, -⟩ := Laws.Encoding.statement_holds i
    rwa [eq_encode_of_decode hi, encode, CmdFields.ofWord_toWord]
  · intro hlegal
    obtain ⟨i, hi⟩ := lookup_of_legal hlegal
    rw [CmdFields.toWord_ofWord] at hi
    exact ⟨i, (decode_eq_ok_iff w i).mpr hi⟩

/-- Settles O2: the decoder's table lists exactly the encoder's words. -/
theorem decodeAndEncodeAgree : Obligations.DecodeAndEncodeAgree :=
  ⟨Laws.Encoding.statement_holds, fun _ _ => eq_encode_of_decode⟩

end Sys2Proof

namespace Sys2Proof.Machine

/-! ## The completion step of a command word -/

theorem complete_of_decode (s : State) {cmd : Word} {i : Instr} (h : decode cmd = .ok i) :
    s.complete cmd = exec i s := by
  simp [State.complete, h]

/-- A CMD value that is no command completes with IllegalCommand (R142). -/
theorem complete_illegal (s : State) {cmd : Word} (h : ∀ i, decode cmd ≠ .ok i) :
    s.complete cmd = .next (s.raise .illegalCommand) := by
  rcases complete_cases s cmd with ⟨i, hi, -⟩ | ⟨e, -, hc⟩
  · exact absurd hi (h i)
  · exact hc

/-- Settles O3: legality is that of the word's fields, and the completion of any other word is the error completion. -/
theorem illegalWordsAreRejected : Obligations.IllegalWordsAreRejected := fun w =>
  ⟨(decodes_iff_legal w).trans (CmdFields.legal_iff _),
    fun s h => ⟨_, complete_illegal s h, raise_fails s .illegalCommand⟩⟩

/-! ## The accesses of a script's statements -/

/-- A list of accesses made by recursion over bytes, one per byte at rising addresses, in closed form. -/
theorem eq_mapIdx_of_rec {ops : Nat → Bytes → List HostOp} {access : Nat → Byte → HostOp}
    (hnil : ∀ a, ops a [] = []) (hcons : ∀ a b bs, ops a (b :: bs) = access a b :: ops (a + 1) bs)
    (a : Nat) (bytes : Bytes) : ops a bytes = bytes.mapIdx fun k b => access (a + k) b := by
  induction bytes generalizing a with
  | nil => simp [hnil]
  | cons b bs ih => simp [hcons, ih, Nat.add_assoc, Nat.add_comm 1]

theorem dataOps_eq_mapIdx (a : Nat) (bytes : Bytes) :
    dataOps a bytes = bytes.mapIdx fun k b => .write .w8 (dmemBase + a + k) (b.setWidth 32) := by
  simp only [Nat.add_assoc]
  exact eq_mapIdx_of_rec (access := fun a b => .write .w8 (dmemBase + a) (b.setWidth 32))
    (fun _ => rfl) (fun _ _ _ => rfl) a bytes

theorem checkOps_eq_mapIdx (a : Nat) (bytes : Bytes) :
    checkOps a bytes = bytes.mapIdx fun k b => .expect .w8 (dmemBase + a + k) (b.setWidth 32) := by
  simp only [Nat.add_assoc]
  exact eq_mapIdx_of_rec (access := fun a b => .expect .w8 (dmemBase + a) (b.setWidth 32))
    (fun _ => rfl) (fun _ _ _ => rfl) a bytes

/-- `fill` writes the same byte at each address. -/
theorem dataOps_rep (a n : Nat) (b : Byte) :
    dataOps a (rep b n) = (List.range n).map fun k => .write .w8 (dmemBase + a + k) (b.setWidth 32) := by
  rw [dataOps_eq_mapIdx, rep]
  apply List.ext_getElem <;> simp

theorem scriptOps_append (xs ys : List Stmt) : scriptOps (xs ++ ys) = scriptOps xs ++ scriptOps ys :=
  List.flatMap_append

/-- `KSI, v` writes the two halves of v (R161). -/
theorem ops_ksi (v : Nat) :
    Stmt.ops (.ksi v) =
      [.write .w32 0x04C (BitVec.ofNat 32 (v % 2 ^ 32)), .write .w32 0x050 (BitVec.ofNat 32 (v / 2 ^ 32))] := by
  have hlow : BitVec.ofNat 32 (v % 2 ^ 32) = BitVec.ofNat 32 v := BitVec.eq_of_toNat_eq (by simp)
  rw [hlow]
  rfl

/-- Settles O60: the byte-wise statements and KSI by their lemmas, every other by its definition. -/
theorem scriptsAreTheirAccesses : Obligations.ScriptsAreTheirAccesses := by
  refine ⟨⟨rfl, fun _ _ => rfl⟩, scriptOps_append, fun _ _ => rfl, fun _ _ => ⟨rfl, rfl⟩, rfl, fun _ => ⟨rfl, rfl⟩,
    fun a bytes => ⟨dataOps_eq_mapIdx a bytes, checkOps_eq_mapIdx a bytes⟩, dataOps_rep, fun _ => ⟨rfl, rfl⟩,
    fun _ => rfl, rfl, rfl, fun _ _ => ⟨rfl, rfl, rfl, rfl, rfl⟩, fun _ => ⟨rfl, rfl, rfl⟩, ops_ksi, ?_⟩
  intro st init add close hrow
  simp only [List.mem_cons, Prod.mk.injEq, List.not_mem_nil, or_false] at hrow
  rcases hrow with h | h | h | h | h | h | h <;> obtain ⟨rfl, rfl, rfl, rfl⟩ := h <;> rfl

/-! ## Steps -/

/-- A `wait` reads STATUS, stays on the agenda while the core is BUSY, and drops what a failed step leaves out. -/
theorem hostDo_wait (s : State) (skip : Nat) :
    s.hostDo (.wait skip) =
      { s with
        hostData := s.statusWord
        host := if s.busy then .wait skip :: s.host else if s.err then s.host.drop skip else s.host } := by
  have hread : s.hostRead .w32 Reg.status.offset = (s.statusWord, s) := hostRead_status s
  simp only [State.hostDo, hread, State.receive]
  split_ifs <;> rfl

/-- Settles O1, by running the decoder on the fourteen words. -/
theorem decodeReadsTableWords : Obligations.DecodeReadsTableWords := by
  unfold Obligations.DecodeReadsTableWords
  decide

/-- Settles O4: the three kinds of steps, then the host's turn by the first thing of its agenda. -/
theorem stepRunsTheDecodedCommand : Obligations.StepRunsTheDecodedCommand := by
  intro s
  refine ⟨fun snap i hbusy hi => ?_, fun snap hbusy hill => ?_, step_pending s, step_idle s, fun nbits w i hi => ?_,
    hostTurn_nil s, fun rest => ⟨fun w off hhost => ?_, fun w off v hhost => ?_, fun w off v hhost => ?_,
      fun skip hhost => ?_⟩⟩
  · rw [step_complete s snap hbusy, complete_of_decode s hi]
  · rw [step_complete s snap hbusy, complete_illegal s hill]
    exact ⟨_, rfl, raise_fails s .illegalCommand⟩
  · rw [step_complete _ ⟨BitVec.ofNat 32 w, s.ops⟩ rfl, complete_of_decode _ hi]
  · exact hostTurn_cons s _ rest hhost
  · exact hostTurn_cons s _ rest hhost
  · exact hostTurn_cons s _ rest hhost
  · rw [hostTurn_cons s _ rest hhost, hostDo_wait, hostRead_status]
    simp only [← busy_iff_not_idle, hhost]
    rfl

end Sys2Proof.Machine

namespace Sys2Proof.Machine

/-! ## The utility commands and the INITs of the hashes -/

/-- The accumulating comparison of R186 is equality. -/
theorem ctEq_eq_decide (a b : Bytes) : ctEq a b = decide (a = b) :=
  Bool.eq_iff_iff.mpr ((ctEq_iff a b).trans decide_eq_true_iff.symm)

/-- Settles O7: the one check of CT_COMPARE passes exactly when both operands are in DMEM. -/
theorem ctCompareSetsEq : Obligations.CtCompareSetsEq := by
  intro s
  constructor
  · intro hfit
    have hpass : firstError (s.checks .ctCompare) = none := by simp [State.checks, addressCheck_pass s _ hfit]
    refine ⟨_, exec_work .ctCompare s hpass, ?_⟩
    rw [← ctEq_eq_decide]
    exact finish_succeeds (s.internalWrite .ctCompare) 0
  · intro hout
    have herr : firstError (s.checks .ctCompare) = some .addressError := by
      simp [State.checks, addressCheck_fail s _ hout]
    exact ⟨_, exec_raise .ctCompare s .addressError herr, raise_fails s .addressError⟩

/-- Settles O6: the five commands have no checks, and their work is a write to internal state before `finish 0`. -/
theorem nopZeroizeAndHashInitsComplete : Obligations.NopZeroizeAndHashInitsComplete := fun s =>
  ⟨⟨_, exec_work .nop s rfl, finish_succeeds s 0⟩, ⟨_, exec_work .zeroize s rfl, finish_succeeds s.zeroize 0⟩,
    ⟨_, exec_work .sha256Init s rfl, finish_succeeds (s.internalWrite .sha256Init) 0⟩,
    ⟨_, exec_work .sha512Init s rfl, finish_succeeds (s.internalWrite .sha512Init) 0⟩,
    ⟨_, exec_work .blake2sInit s rfl, finish_succeeds (s.internalWrite .blake2sInit) 0⟩⟩

/-! ## PKCS#7 padding -/

/-- Stripping takes off `p` bytes of value `p` (R184). -/
theorem unpad7_append_rep (m : Bytes) {p : Nat} (hpos : 1 ≤ p) (hle : p ≤ 16) :
    unpad7 (m ++ rep (BitVec.ofNat 8 p) p) = some m := by
  have hval : (BitVec.ofNat 8 p).toNat = p := by simp; omega
  have hlast : (m ++ rep (BitVec.ofNat 8 p) p).getLastD 0 = BitVec.ofNat 8 p := by
    obtain ⟨k, rfl⟩ := Nat.exists_eq_add_of_le' hpos
    simp [rep, List.replicate_succ', ← List.append_assoc]
  have hall : (rep (BitVec.ofNat 8 p) p).all (fun x => x.toNat == p) = true := by simp [rep, hval]
  simp only [unpad7, hlast, hval, List.length_append, length_rep, Nat.add_sub_cancel, List.drop_left, List.take_left,
    hall]
  rw [if_neg (by omega), if_neg (by omega), if_pos trivial]

/-- What passes the verification of R184 is the message followed by its padding. -/
theorem eq_append_rep_of_unpad7 {d m : Bytes} (h : unpad7 d = some m) :
    ∃ p, 1 ≤ p ∧ p ≤ 16 ∧ d = m ++ rep (BitVec.ofNat 8 p) p := by
  simp only [unpad7] at h
  generalize (d.getLastD 0).toNat = p at h
  split_ifs at h with hrange hlen hall
  obtain rfl := Option.some.inj h
  have hpad : d.drop (d.length - p) = rep (BitVec.ofNat 8 p) p := by
    refine List.eq_replicate_iff.mpr ⟨by simp; omega, fun x hx => ?_⟩
    have hx := List.all_eq_true.mp hall x hx
    simp [← beq_iff_eq.mp hx]
  exact ⟨p, by omega, by omega, by rw [← hpad, List.take_append_drop]⟩

/-- Settles O36: padding is one of the paddings that stripping takes off, and it takes off nothing else. -/
theorem paddingIsStripped : Obligations.PaddingIsStripped := by
  refine ⟨fun m => ?_, fun d m _ => ⟨eq_append_rep_of_unpad7, ?_⟩⟩
  · have hlen := length_pad7 m
    exact ⟨by omega, by omega, unpad7_append_rep m (by omega) (by omega), rfl⟩
  · rintro ⟨p, hpos, hle, rfl⟩
    exact unpad7_append_rep m hpos hle

/-! ## The GF(2^8) product

xtime generates the field from 1, and the product commutes with it on either side. -/

/-- The top seven bits of a byte are an xtime, its lowest bit is 0 or 1. -/
theorem eq_xtime_shift_xor : ∀ b : Byte, b = xtime (b >>> 1) ^^^ (if b.getLsbD 0 then 1 else 0) := by
  decide +kernel

/-- Every byte is made from 1 by xtime and exclusive or. -/
theorem xtime_induction {P : Byte → Prop} (one : P 1) (step : ∀ b, P b → P (xtime b))
    (xor : ∀ b c, P b → P c → P (b ^^^ c)) (b : Byte) : P b := by
  have zero : P 0 := xor 1 1 one one
  induction hn : b.toNat using Nat.strong_induction_on generalizing b with
  | _ n ih =>
    by_cases hb : b = 0
    · rwa [hb]
    · have hless : (b >>> 1).toNat < n := by
        have hne : b.toNat ≠ 0 := fun h => hb (BitVec.eq_of_toNat_eq h)
        rw [BitVec.toNat_ushiftRight, Nat.shiftRight_eq_div_pow]
        omega
      have hshift : P (b >>> 1) := ih _ hless _ rfl
      rw [eq_xtime_shift_xor b]
      refine xor _ _ (step _ hshift) ?_
      split
      · exact one
      · exact zero

theorem gmul_one (a : Byte) : gmul a 1 = a := by simp [gmul, gmulLoop]

theorem gmul_zero (a : Byte) : gmul a 0 = 0 := by simp [gmul, gmulLoop]

/-- The loop of R182 is linear in its first factor and its result. -/
theorem gmulLoop_xor_left (n : Nat) (a a' b r r' : Byte) :
    gmulLoop n (a ^^^ a') b (r ^^^ r') = gmulLoop n a b r ^^^ gmulLoop n a' b r' := by
  induction n generalizing a a' b r r' with
  | zero => rfl
  | succ n ih =>
    simp only [gmulLoop, xtime_xor]
    rw [← ih]
    split
    · congr 1
      ac_rfl
    · rfl

/-- xtime of the first factor and of the result so far is xtime of the result. -/
theorem gmulLoop_xtime (n : Nat) (a b r : Byte) : gmulLoop n (xtime a) b (xtime r) = xtime (gmulLoop n a b r) := by
  induction n generalizing a b r with
  | zero => rfl
  | succ n ih =>
    simp only [gmulLoop, ← ih]
    split
    · rw [xtime_xor]
    · rfl

theorem xor_gmul (a b c : Byte) : gmul (a ^^^ b) c = gmul a c ^^^ gmul b c := gmulLoop_xor_left 8 a b c 0 0

theorem xtime_gmul (a b : Byte) : gmul (xtime a) b = xtime (gmul a b) := gmulLoop_xtime 8 a b 0

theorem one_gmul : ∀ b : Byte, gmul 1 b = b := by decide +kernel

theorem gmul_xtime (a b : Byte) : gmul a (xtime b) = xtime (gmul a b) := by
  induction a using xtime_induction with
  | one => rw [one_gmul, one_gmul]
  | step a ih => rw [xtime_gmul, ih, xtime_gmul]
  | xor a a' ih ih' => rw [xor_gmul, ih, ih', xor_gmul, xtime_xor]

theorem gmul_comm (a b : Byte) : gmul a b = gmul b a := by
  induction b using xtime_induction with
  | one => rw [gmul_one, one_gmul]
  | step b ih => rw [gmul_xtime, ih, xtime_gmul]
  | xor b b' ih ih' => rw [gmul_xor, ih, ih', xor_gmul]

theorem gmul_assoc (a b c : Byte) : gmul (gmul a b) c = gmul a (gmul b c) := by
  induction c using xtime_induction with
  | one => rw [gmul_one, gmul_one]
  | step c ih => rw [gmul_xtime, ih, gmul_xtime, gmul_xtime]
  | xor c c' ih ih' => rw [gmul_xor, ih, ih', gmul_xor, gmul_xor]

/-- Settles O38: the laws by generation from 1, the worked values by running the loop. -/
theorem gfProductLaws : Obligations.GfProductLaws :=
  ⟨fun a b c => ⟨gmul_comm a b, gmul_assoc a b c, gmul_xor a b c, gmul_one a, gmul_zero a⟩, by decide, by decide,
    by decide, by decide⟩

end Sys2Proof.Machine

namespace Sys2Proof.Machine

/-! ## The AES tables -/

/-- The inverse of the affine map of R221: bit i is `b[i+2] ^ b[i+5] ^ b[i+7] ^ 0x05[i]`, indices modulo 8. -/
def sboxAffineInv (b : Byte) : Byte := b.rotateRight 2 ^^^ b.rotateRight 5 ^^^ b.rotateRight 7 ^^^ 0x05

theorem sboxAffine_sboxAffineInv : ∀ b : Byte, sboxAffine (sboxAffineInv b) = b := by decide +kernel

theorem invSbox_sbox : ∀ x : Byte, invSbox (sbox x) = x := by decide +kernel

theorem sbox_invSbox : ∀ x : Byte, sbox (invSbox x) = x := by decide +kernel

/-- What is left of the S-box without its affine map is the inverse in GF(2^8) (R221). -/
theorem gmul_sboxAffineInv_sbox : ∀ x : Byte, x ≠ 0 → gmul x (sboxAffineInv (sbox x)) = 1 := by decide +kernel

/-- Each round constant is xtime of the one before (R223). -/
theorem rcon_succ : ∀ j, j < 10 → 1 ≤ j → rcon (j + 1) = xtime (rcon j) := by decide

/-- Settles O37: the tables meet their formulas at each byte, the inverse of x being `sboxAffineInv` of its entry. -/
theorem aesTablesMeetTheirFormulas : Obligations.AesTablesMeetTheirFormulas :=
  ⟨fun x => ⟨invSbox_sbox x, sbox_invSbox x⟩, rfl,
    fun x hx => ⟨_, gmul_sboxAffineInv_sbox x hx, (sboxAffine_sboxAffineInv _).symm⟩, rfl,
    fun j h1 h10 => rcon_succ j h10 h1⟩

/-! ## The key schedules -/

/-- Words `w[0 .. n-1]` that meet the recurrence of R228 from `w[Nk]` on. -/
def MeetsRecurrence (nk : Nat) (w : List Word) : Prop :=
  ∀ i, nk ≤ i → i < w.length → w.getD i 0 = w.getD (i - nk) 0 ^^^ expandTemp nk i (w.getD (i - 1) 0)

/-- The loop of R228 appends to the words it has. -/
theorem expandLoop_eq_append (nk n i : Nat) (ws : List Word) : ∃ later, expandLoop nk n i ws = later ++ ws := by
  induction n generalizing i ws with
  | zero => exact ⟨[], rfl⟩
  | succ n ih =>
    obtain ⟨later, hlater⟩ := ih (i + 1) ((ws.getD (nk - 1) 0 ^^^ expandTemp nk i (ws.headD 0)) :: ws)
    exact ⟨later ++ [_], by rw [expandLoop, hlater, List.append_assoc]; rfl⟩

/-- One turn of the loop keeps the recurrence. -/
theorem MeetsRecurrence.step {nk : Nat} {ws : List Word} (hnk : 0 < nk) (h : MeetsRecurrence nk ws.reverse)
    (hle : nk ≤ ws.length) :
    MeetsRecurrence nk ((ws.getD (nk - 1) 0 ^^^ expandTemp nk ws.length (ws.headD 0)) :: ws).reverse := by
  intro i hi hlt
  rw [List.length_reverse, List.length_cons] at hlt
  rw [List.reverse_cons, List.getD_append _ _ _ (i - nk) (by simp; omega),
    List.getD_append _ _ _ (i - 1) (by simp; omega)]
  rcases Nat.lt_succ_iff_lt_or_eq.mp hlt with hold | rfl
  · rw [List.getD_append _ _ _ _ (by simpa using hold)]
    exact h i hi (by simpa using hold)
  · rw [List.getD_append_right _ _ _ _ (by simp), List.getD_reverse _ (by omega), List.getD_reverse _ (by omega)]
    have hnth : ws.length - 1 - (ws.length - nk) = nk - 1 := by omega
    have hhead : ws.length - 1 - (ws.length - 1) = 0 := by omega
    rw [hnth, hhead]
    cases ws <;> simp

theorem meetsRecurrence_expandLoop {nk : Nat} (hnk : 0 < nk) (n : Nat) {ws : List Word} (hle : nk ≤ ws.length)
    (h : MeetsRecurrence nk ws.reverse) : MeetsRecurrence nk (expandLoop nk n ws.length ws).reverse := by
  induction n generalizing ws with
  | zero => exact h
  | succ n ih => exact ih (by rw [List.length_cons]; omega) (h.step hnk hle)

/-- The words the loop of R228 starts from: the key as big-endian words. -/
def keyWords (key : Bytes) : List Word := (List.range (keyNk key)).map (fun i => be32 key (4 * i))

@[simp] theorem length_keyWords (key : Bytes) : (keyWords key).length = keyNk key := by simp [keyWords]

theorem keyExpansion_eq (key : Bytes) : keyExpansion key =
    (expandLoop (keyNk key) (4 * (keyNr key + 1) - keyNk key) (keyWords key).reverse.length
      (keyWords key).reverse).reverse := by
  rw [List.length_reverse, length_keyWords]
  rfl

theorem getD_keyExpansion_of_lt {key : Bytes} {i : Nat} (hi : i < keyNk key) :
    (keyExpansion key).getD i 0 = be32 key (4 * i) := by
  obtain ⟨later, hlater⟩ := expandLoop_eq_append (keyNk key) (4 * (keyNr key + 1) - keyNk key)
    (keyWords key).reverse.length (keyWords key).reverse
  rw [keyExpansion_eq, hlater, List.reverse_append, List.reverse_reverse,
    List.getD_append _ _ _ _ (by simpa using hi), List.getD_eq_getElem _ _ (by simpa using hi)]
  simp [keyWords]

theorem meetsRecurrence_keyExpansion {key : Bytes} (hnk : 0 < keyNk key) :
    MeetsRecurrence (keyNk key) (keyExpansion key) := by
  rw [keyExpansion_eq]
  refine meetsRecurrence_expandLoop hnk _ (by simp) fun i hi hlt => ?_
  simp at hlt
  omega

theorem ofBytes_top : ∀ b : Byte, ofBytes b 0 0 0 = b.setWidth 32 <<< 24 := by decide +kernel

theorem keyNk_pos {key : Bytes} (hk : key.length ∈ aesKeyLens) : 0 < keyNk key := by
  simp only [aesKeyLens, List.mem_cons, List.not_mem_nil, or_false] at hk
  rw [keyNk]
  omega

/-- Settles O9: the loop of R228 keeps its first words and adds each later one by the recurrence. -/
theorem keyExpansionRecurrence : Obligations.KeyExpansionRecurrence := by
  intro key hk
  refine ⟨length_keyExpansion key, fun i hi => getD_keyExpansion_of_lt hi, fun i hi hlt => ?_⟩
  have hrec := meetsRecurrence_keyExpansion (keyNk_pos hk) i hi ((length_keyExpansion key).symm ▸ hlt)
  rw [expandTemp, ofBytes_top] at hrec
  exact hrec

/-- Word j of row r of rows of four words. -/
theorem getD_flatMap_four (f : Nat → Nat → Word) {n r j : Nat} (hr : r < n) (hj : j < 4) :
    ((List.range n).flatMap fun r => (List.range 4).map (f r)).getD (4 * r + j) 0 = f r j := by
  induction n with
  | zero => omega
  | succ n ih =>
    have hlen : ((List.range n).flatMap fun r => (List.range 4).map (f r)).length = 4 * n := by simp [Nat.mul_comm]
    rw [List.range_succ (n := n), List.flatMap_append]
    rcases Nat.lt_succ_iff_lt_or_eq.mp hr with hlt | rfl
    · rw [List.getD_append _ _ _ _ (by omega), ih hlt]
    · rw [List.getD_append_right _ _ _ _ (by omega), hlen, Nat.add_sub_cancel_left]
      simp [List.getD, hj]

/-- Word `4·r + j` of the decryption schedule (R229). -/
theorem getD_decSchedule (key : Bytes) {r j : Nat} (hr : r ≤ keyNr key) (hj : j < 4) :
    (decSchedule key).getD (4 * r + j) 0 = decWord (keyExpansion key) (keyNr key) r j :=
  getD_flatMap_four (decWord (keyExpansion key) (keyNr key)) (Nat.lt_succ_of_le hr) hj

/-- Settles O10: DecSchedule is made of the rows of `decWord`. -/
theorem decScheduleWords : Obligations.DecScheduleWords := fun key _ =>
  ⟨length_decSchedule key, fun _ _ hr hj => getD_decSchedule key hr hj⟩

/-! ## The AES commands -/

/-- A loaded array holds the words given and 0 past them (R235, R236). -/
theorem getD_toList_load (nr : Rounds) (w : List Word) {i : Nat} (hi : i < 60) :
    (Schedule.load nr w).toList.getD i 0 = if i < w.length then w.getD i 0 else 0 := by
  rw [toList_load, List.getD_eq_getElem?_getD, List.getElem?_take_of_lt hi, ← List.getD_eq_getElem?_getD]
  split
  · next hlt => exact List.getD_append _ _ _ _ hlt
  · next hge => rw [List.getD_append_right _ _ _ _ (Nat.le_of_not_lt hge), List.getD_replicate _ (by omega)]

/-- The checks of the key expansions pass with KEY in DMEM and a valid KEY_LEN. -/
theorem keyExpChecks_pass {s : State} (hfit : s.allFit [s.keyRegion]) (hlen : s.snap.keyLen.toNat ∈ aesKeyLens) :
    firstError s.keyExpChecks = none := by
  simp [State.keyExpChecks, addressCheck_pass s _ hfit, keyLenCheck_pass s _ hlen]

/-- The array that a key expansion loads, for the round count and the words of the key in KEY. -/
theorem load_keyRegion {s : State} (hlen : s.snap.keyLen.toNat ∈ aesKeyLens) {w : List Word}
    (hw : w.length = 4 * (keyNr (s.input s.keyRegion) + 1)) :
    (Schedule.load (roundsOf (s.input s.keyRegion)) w).nr.nr = s.snap.keyLen.toNat / 4 + 6 ∧
    ∀ i, i < 60 → (Schedule.load (roundsOf (s.input s.keyRegion)) w).toList.getD i 0 =
      if i < 4 * (s.snap.keyLen.toNat / 4 + 6 + 1) then w.getD i 0 else 0 := by
  have hkey : (s.input s.keyRegion).length = s.snap.keyLen.toNat := length_input s s.keyRegion
  have hnr : keyNr (s.input s.keyRegion) = s.snap.keyLen.toNat / 4 + 6 := by rw [keyNr, keyNk, hkey]
  refine ⟨(roundsOf_nr (hkey ▸ hlen)).trans hnr, fun i hi => ?_⟩
  rw [getD_toList_load _ _ hi, hw, hnr]

/-- Settles O8: the checks pass, and the work loads the schedule of the key. -/
theorem keyExpansionsComplete : Obligations.KeyExpansionsComplete := by
  intro s hfit hlen
  have hpass := keyExpChecks_pass hfit hlen
  exact ⟨⟨_, exec_work .aesKeyexpEnc s hpass, rfl, load_keyRegion hlen (length_keyExpansion _)⟩,
    ⟨_, exec_work .aesKeyexpDec s hpass, rfl, load_keyRegion hlen (length_decSchedule _)⟩⟩

/-- The checks of the single-block commands pass. -/
theorem blockChecks_pass {s : State} {k : Schedule} (hfit : s.allFit [s.srcRegion, s.dstRegion])
    (hsrc : 16 ≤ s.snap.srcLen.toNat) (hdst : 0 < s.snap.dstLen.toNat) (hk : k.nr.nr ≠ 0) :
    firstError (s.blockChecks k) = none := by
  simp [State.blockChecks, addressCheck_pass s _ hfit, Schedule.valid, hk]
  omega

/-- A single-block command writes the first min(DST_LEN, 16) bytes at DST and leaves that number in OUT_LEN. -/
theorem output_block {s : State} (hwf : Memory.wf s.params.dmemSize s.dmem = true) {out : Bytes}
    (hlen : out.length = s.blockOutLen) :
    Outputs s out (s.output out) ∧ (s.output out).outLen.toNat = min s.snap.dstLen.toNat 16 := by
  refine ⟨output_outputs s out hwf, ?_⟩
  have hout : (s.output out).outLen = BitVec.ofNat 32 out.length := rfl
  rw [hout, hlen, State.blockOutLen, BitVec.toNat_ofNat]
  omega

/-- Settles O11: with the checks passed each command outputs its transform of the block, cut to DST_LEN. -/
theorem aesBlocksComplete : Obligations.AesBlocksComplete := by
  intro s hwf hfit hsrc hdst
  constructor
  · intro hk
    exact ⟨_, exec_work .aesEncBlock s (blockChecks_pass hfit hsrc hdst hk),
      output_block hwf (by simp [State.blockOutLen])⟩
  · intro hk
    exact ⟨_, exec_work .aesDecBlock s (blockChecks_pass hfit hsrc hdst hk),
      output_block hwf (by simp [State.blockOutLen])⟩

end Sys2Proof.Machine

namespace Sys2Proof.Machine

/-! ## AES decryption undoes AES encryption

A round of R230 substitutes bytes along shifted rows, mixes columns and adds a round key; a round of R231 undoes the
substitution and then, InvMixWord being linear, the mixing and the round key of the encryption round before. -/

/-- The words of a schedule for round r. -/
def roundKey (k : List Word) (r : Nat) : AesState :=
  ⟨k.getD (4 * r) 0, k.getD (4 * r + 1) 0, k.getD (4 * r + 2) 0, k.getD (4 * r + 3) 0⟩

namespace AesState

/-- The exclusive or of two states, word by word. -/
def add (t u : AesState) : AesState := ⟨t.t0 ^^^ u.t0, t.t1 ^^^ u.t1, t.t2 ^^^ u.t2, t.t3 ^^^ u.t3⟩

/-- The S-box at every byte, each taken from the place R230 gives. -/
def subShift (t : AesState) : AesState where
  t0 := ofBytes (sbox (byte3 t.t0)) (sbox (byte2 t.t1)) (sbox (byte1 t.t2)) (sbox (byte0 t.t3))
  t1 := ofBytes (sbox (byte3 t.t1)) (sbox (byte2 t.t2)) (sbox (byte1 t.t3)) (sbox (byte0 t.t0))
  t2 := ofBytes (sbox (byte3 t.t2)) (sbox (byte2 t.t3)) (sbox (byte1 t.t0)) (sbox (byte0 t.t1))
  t3 := ofBytes (sbox (byte3 t.t3)) (sbox (byte2 t.t0)) (sbox (byte1 t.t1)) (sbox (byte0 t.t2))

/-- The inverse S-box at every byte, each taken from the place R231 gives. -/
def invSubShift (t : AesState) : AesState where
  t0 := ofBytes (invSbox (byte3 t.t0)) (invSbox (byte2 t.t3)) (invSbox (byte1 t.t2)) (invSbox (byte0 t.t1))
  t1 := ofBytes (invSbox (byte3 t.t1)) (invSbox (byte2 t.t0)) (invSbox (byte1 t.t3)) (invSbox (byte0 t.t2))
  t2 := ofBytes (invSbox (byte3 t.t2)) (invSbox (byte2 t.t1)) (invSbox (byte1 t.t0)) (invSbox (byte0 t.t3))
  t3 := ofBytes (invSbox (byte3 t.t3)) (invSbox (byte2 t.t2)) (invSbox (byte1 t.t1)) (invSbox (byte0 t.t0))

/-- InvMixWord at every word. -/
def invMix (t : AesState) : AesState := ⟨invMixWord t.t0, invMixWord t.t1, invMixWord t.t2, invMixWord t.t3⟩

/-- The state of a block: its four big-endian words (R230, R231). -/
def ofBlock (b : Bytes) : AesState := ⟨be32 b 0, be32 b 4, be32 b 8, be32 b 12⟩

/-- The block of a state: its words, big-endian. -/
def block (t : AesState) : Bytes := toBe32 t.t0 ++ toBe32 t.t1 ++ toBe32 t.t2 ++ toBe32 t.t3

@[simp] theorem add_add_cancel (t u : AesState) : (t.add u).add u = t := by
  simp [add]

@[simp] theorem invSubShift_subShift (t : AesState) : t.subShift.invSubShift = t := by
  simp [subShift, invSubShift, invSbox_sbox]

theorem invMix_add (t u : AesState) : (t.add u).invMix = t.invMix.add u.invMix := by
  simp [add, invMix, invMixWord_xor]

end AesState

open AesState

/-! The rounds in these terms. -/

/-- InvMixWord takes an encryption round without its round key back to the substituted state (R230). -/
theorem invMix_encRound (k : List Word) (t : AesState) (r : Nat) :
    (encRound k t r).invMix = t.subShift.add (roundKey k r).invMix := by
  simp [encRound, invMix, subShift, add, roundKey, invMixWord_xor, invMixWord_lookup4_tableE1]

/-- A decryption round undoes the substitution, then applies InvMixWord and the round key (R231). -/
theorem decRound_eq (k : List Word) (t : AesState) (r : Nat) :
    decRound k t r = t.invSubShift.invMix.add (roundKey k r) := by
  simp [decRound, invMix, invSubShift, add, roundKey, lookup4_tableD1]

theorem toBe32_eq (w : Word) : toBe32 w = [byte3 w, byte2 w, byte1 w, byte0 w] := by
  rw [toBe32, toBe, toLe_word]
  rfl

/-- Four bytes of the last round are a word of substituted bytes with the schedule word added. -/
theorem lastWord_eq (sub : Byte → Byte) (a b c d : Byte) (k : Word) :
    lastWord sub a b c d k = toBe32 (ofBytes (sub a) (sub b) (sub c) (sub d) ^^^ k) := by
  conv_rhs => rw [← ofBytes_bytes k, ofBytes_xor, toBe32_eq]
  simp [lastWord]

theorem encLast_eq (k : List Word) (nr : Nat) (t : AesState) :
    encLast k nr t = (t.subShift.add (roundKey k nr)).block := by
  simp only [encLast, lastWord_eq]
  rfl

theorem decLast_eq (k : List Word) (nr : Nat) (t : AesState) :
    decLast k nr t = (t.invSubShift.add (roundKey k nr)).block := by
  simp only [decLast, lastWord_eq]
  rfl

/-! Blocks and states. -/

theorem aesFirst_eq (k : List Word) (b : Bytes) : aesFirst k b = (ofBlock b).add (roundKey k 0) := rfl

theorem ofBlock_block (t : AesState) : ofBlock t.block = t := by
  have hword (w : Word) : be32 [byte3 w, byte2 w, byte1 w, byte0 w] 0 = w := by rw [be32_four, ofBytes_bytes]
  obtain ⟨t0, t1, t2, t3⟩ := t
  simp only [block, toBe32_eq]
  exact (AesState.mk.injEq ..).mpr ⟨hword t0, hword t1, hword t2, hword t3⟩

theorem block_ofBlock {b : Bytes} (hb : b.length = 16) : (ofBlock b).block = b := by
  match b, hb with
  | [b0, b1, b2, b3, b4, b5, b6, b7, b8, b9, b10, b11, b12, b13, b14, b15], _ =>
    have hstate : ofBlock [b0, b1, b2, b3, b4, b5, b6, b7, b8, b9, b10, b11, b12, b13, b14, b15] =
        ⟨ofBytes b0 b1 b2 b3, ofBytes b4 b5 b6 b7, ofBytes b8 b9 b10 b11, ofBytes b12 b13 b14 b15⟩ :=
      (AesState.mk.injEq ..).mpr ⟨be32_four .., be32_four .., be32_four .., be32_four ..⟩
    simp [hstate, block, toBe32_eq]

/-! The schedules and the rounds between the first and the last. -/

/-- The round keys of `kd` are those of `k` in reverse, with InvMixWord on the middle ones (R229). -/
structure ReversesSchedule (kd k : List Word) (nr : Nat) : Prop where
  first : roundKey kd 0 = roundKey k nr
  last : roundKey kd nr = roundKey k 0
  middle : ∀ r, 1 ≤ r → r < nr → roundKey kd (nr - r) = (roundKey k r).invMix

theorem roundKey_decSchedule (key : Bytes) {r : Nat} (hr : r ≤ keyNr key) :
    roundKey (decSchedule key) r =
      if 1 ≤ r ∧ r ≤ keyNr key - 1 then (roundKey (keyExpansion key) (keyNr key - r)).invMix
      else roundKey (keyExpansion key) (keyNr key - r) := by
  have hword (j : Nat) (hj : j < 4) := getD_decSchedule key hr hj
  have hword0 : (decSchedule key).getD (4 * r) 0 = decWord (keyExpansion key) (keyNr key) r 0 := hword 0 (by omega)
  simp only [roundKey, hword0, hword 1 (by omega), hword 2 (by omega), hword 3 (by omega), decWord]
  split <;> rfl

theorem decSchedule_reverses (key : Bytes) : ReversesSchedule (decSchedule key) (keyExpansion key) (keyNr key) where
  first := by rw [roundKey_decSchedule key (Nat.zero_le _), if_neg (by omega), Nat.sub_zero]
  last := by
    rw [roundKey_decSchedule key le_rfl, if_neg (by rw [keyNr]; omega), Nat.sub_self]
  middle r h1 hr := by
    rw [roundKey_decSchedule key (Nat.sub_le ..), if_pos (by omega), Nat.sub_sub_self hr.le]

section Rounds

variable {kd k : List Word} {nr : Nat} (h : ReversesSchedule kd k nr)
include h

/-- Decryption round `nr - r` takes the substituted state after encryption round r to the one before it. -/
theorem decRound_subShift_encRound {r : Nat} (h1 : 1 ≤ r) (hr : r < nr) (t : AesState) :
    decRound kd (encRound k t r).subShift (nr - r) = t.subShift := by
  rw [decRound_eq, invSubShift_subShift, invMix_encRound, h.middle r h1 hr, add_add_cancel]

/-- The last n middle rounds of decryption undo the first n of encryption. -/
theorem decRounds_encRounds {n : Nat} (hn : n < nr) (t : AesState) :
    (List.range' (nr - n) n).foldl (decRound kd) ((List.range' 1 n).foldl (encRound k) t).subShift = t.subShift := by
  induction n with
  | zero => rfl
  | succ n ih =>
    have hnext : nr - (n + 1) + 1 = nr - n := by omega
    rw [List.range'_1_concat, List.foldl_append, List.range'_succ, hnext]
    simp only [List.foldl_cons, List.foldl_nil]
    rw [Nat.add_comm 1 n, decRound_subShift_encRound h (Nat.le_add_left ..) hn, ih (by omega)]

/-- The inverse cipher undoes the cipher (R233). -/
theorem aesDec_aesEnc (hnr : 0 < nr) {b : Bytes} (hb : b.length = 16) :
    aesDec kd nr (aesEnc k nr b 16) 16 = b := by
  have hstart : nr - (nr - 1) = 1 := by omega
  have hrounds := decRounds_encRounds h (Nat.sub_lt hnr Nat.one_pos) (aesFirst k b)
  rw [hstart] at hrounds
  have hfull (t : AesState) : t.block.take 16 = t.block := List.take_of_length_le (by simp [block])
  rw [aesDec, aesEnc, encLast_eq, hfull, aesFirst_eq kd, ofBlock_block, h.first, add_add_cancel, hrounds, decLast_eq,
    invSubShift_subShift, h.last, aesFirst_eq, add_add_cancel, block_ofBlock hb]
  exact List.take_of_length_le hb.le

/-- Injective on the finite set of 16-byte blocks, the cipher reaches every one (R233). -/
theorem exists_aesEnc_eq (hnr : 0 < nr) {b : Bytes} (hb : b.length = 16) :
    ∃ c, c.length = 16 ∧ aesEnc k nr c 16 = b := by
  have hinj : Set.InjOn (aesEnc k nr · 16) {c : Bytes | c.length = 16} :=
    Set.LeftInvOn.injOn (f₁' := (aesDec kd nr · 16)) fun _ hc => aesDec_aesEnc h hnr hc
  have hmaps : Set.MapsTo (aesEnc k nr · 16) {c : Bytes | c.length = 16} {c : Bytes | c.length = 16} :=
    fun c _ => length_aesEnc k nr c 16
  exact (((List.finite_length_eq Byte 16).injOn_iff_bijOn_of_mapsTo hmaps).mp hinj).surjOn hb

end Rounds

/-- Settles O35: the schedules of a key reverse each other, and shorter outputs are cut from the whole block. -/
theorem aesDecUndoesAesEnc : Obligations.AesDecUndoesAesEnc := by
  refine ⟨fun key b _ hb => ?_, fun k nr b n hn => ?_⟩
  · have hrev := decSchedule_reverses key
    have hnr : 0 < keyNr key := Nat.succ_pos _
    exact ⟨aesDec_aesEnc hrev hnr hb, exists_aesEnc_eq hrev hnr hb⟩
  · simp only [aesEnc, aesDec, List.take_take, Nat.min_eq_left hn.le, and_self]

end Sys2Proof.Machine

namespace Sys2Proof.Machine

/-! ## The AES modes

CBC decryption takes the ciphertext apart at the blocks that encryption made. For CTR the key fact is what one byte of
its output is: that it is its own inverse and splits at blocks follows from that. -/

/-- Stripping undoes padding (R183, R184). -/
theorem unpad7_pad7 (m : Bytes) : unpad7 (pad7 m) = some m :=
  unpad7_append_rep m (p := 16 - m.length % 16) (by omega) (by omega)

/-- A whole block in front is the first chunk. -/
theorem chunks_block_append {b : Bytes} (hb : b.length = 16) (d : Bytes) : chunks 16 (b ++ d) = b :: chunks 16 d := by
  rw [chunks_append_whole 16 (by omega) 1 b d hb, pieces, pieces, List.take_of_length_le hb.le, List.singleton_append]

/-- Padding leaves whole blocks only (R183). -/
theorem length_of_mem_chunks_pad7 {m d : Bytes} (hd : d ∈ chunks 16 (pad7 m)) : d.length = 16 := by
  have hlen : (pad7 m).length = 16 * (m.length / 16 + 1) := by rw [length_pad7]; omega
  rw [chunks_of_mul 16 _ (by omega) _ hlen] at hd
  exact length_of_mem_pieces 16 _ _ hlen.ge d hd

/-- The inverse cipher undoes the cipher under the schedules of a key (R233, R270). -/
theorem aesDecKey_aesEncKey (key : Bytes) {b : Bytes} (hb : b.length = 16) : aesDecKey key (aesEncKey key b 16) = b :=
  aesDec_aesEnc (decSchedule_reverses key) (Nat.succ_pos _) hb

/-- The loop of R272 undoes the loop of R271, block by block. -/
theorem cbcDecBlocks_chunks_cbcEncBlocks (key : Bytes) {prev : Bytes} (hprev : prev.length = 16) {ds : List Bytes}
    (hds : ∀ d ∈ ds, d.length = 16) :
    cbcDecBlocks key prev (chunks 16 (cbcEncBlocks key prev ds)) = ds.flatten := by
  induction ds generalizing prev with
  | nil => rw [cbcEncBlocks, chunks_of_mul 16 0 (by omega) [] rfl]; rfl
  | cons d ds ih =>
    obtain ⟨hd, hrest⟩ := List.forall_mem_cons.mp hds
    have hc : (aesEncKey key (xorBytes d prev) 16).length = 16 := length_aesEncKey ..
    rw [cbcEncBlocks, chunks_block_append hc, cbcDecBlocks, aesDecKey_aesEncKey key (by simp [hd, hprev]),
      xorBytes_cancel d prev (by rw [hd, hprev]), ih hc hrest, List.flatten_cons]

/-- Settles O14: decryption gives back the padded blocks, and stripping takes the padding off. -/
theorem cbcRoundTrip : Obligations.CbcRoundTrip := by
  intro key iv m _ hiv
  rw [cbcDec, cbcEnc, cbcDecBlocks_chunks_cbcEncBlocks key hiv fun d => length_of_mem_chunks_pad7,
    chunks_flatten 16 (by omega), unpad7_pad7]

/-! The counter. -/

theorem be32_toBe32 (w : Word) : be32 (toBe32 w) 0 = w := by rw [toBe32_eq, be32_four, ofBytes_bytes]

/-- A word read past a string of i bytes is the first word of what follows it. -/
theorem be32_append {a : Bytes} {i : Nat} (ha : a.length = i) (b : Bytes) : be32 (a ++ b) i = be32 b 0 := by
  rw [be32, be32, slice, slice, ← ha, List.drop_left, List.drop_zero]

theorem length_ctrBlock0 {n : Bytes} (hn : n.length ≤ 16) : (ctrBlock0 n).length = 16 := by
  simp [ctrBlock0, hn]

/-- Moving a counter block on by v and then by w is moving it on by v + w, at either width (R274). -/
theorem ctrAdd_ctrAdd (bits : CtrCounterBits) {cb : Bytes} (hcb : cb.length = 16) (v w : Nat) :
    ctrAdd bits (ctrAdd bits cb v) w = ctrAdd bits cb (v + w) := by
  cases bits with
  | bits32 =>
    have hpre : (cb.take 12).length = 12 := by simp [hcb]
    simp only [ctrAdd]
    rw [List.take_left' hpre, be32_append hpre, be32_toBe32]
    simp only [BitVec.ofNat_add, BitVec.ofNat_toNat, BitVec.setWidth_eq, BitVec.add_assoc]
  | bits128 =>
    have hpow : (256 : Nat) ^ 16 = 2 ^ 128 := by norm_num
    simp only [ctrAdd, beInt_toBe, hpow, Nat.mod_mod, Nat.mod_add_mod, Nat.add_assoc]

/-! The keystream. -/

theorem getD_take_of_lt (b : Bytes) {j k : Nat} (hj : j < k) : (b.take k).getD j 0 = b.getD j 0 := by
  rw [List.getD_eq_getElem?_getD, List.getElem?_take_of_lt hj, ← List.getD_eq_getElem?_getD]

theorem getD_drop (b : Bytes) (k j : Nat) : (b.drop k).getD j 0 = b.getD (k + j) 0 := by
  rw [List.getD_eq_getElem?_getD, List.getElem?_drop, ← List.getD_eq_getElem?_getD]

/-- A shorter output of the cipher is cut from the whole block (R270). -/
theorem getD_aesEncKey (key b : Bytes) {n j : Nat} (hj : j < n) (hn : n ≤ 16) :
    (aesEncKey key b n).getD j 0 = (aesEncKey key b 16).getD j 0 := by
  have hcut : aesEncKey key b n = (aesEncKey key b 16).take n := by
    simp [aesEncKey, aesEnc, List.take_take, Nat.min_eq_left hn]
  rw [hcut, getD_take_of_lt _ hj]

/-- Byte j of the loop of R275 over the first k pieces, from counter block `CtrAdd(cb, i)` on. -/
theorem getD_ctrBlocks_pieces (bits : CtrCounterBits) (key : Bytes) {cb : Bytes} (hcb : cb.length = 16) (i k : Nat)
    (m : Bytes) (j : Nat) (hk : j < 16 * k) (hj : j < m.length) :
    (ctrBlocks bits key (ctrAdd bits cb i) (pieces 16 k m)).getD j 0 =
      m.getD j 0 ^^^ (aesEncKey key (ctrAdd bits cb (i + j / 16)) 16).getD (j % 16) 0 := by
  induction k generalizing i m j with
  | zero => omega
  | succ k ih =>
    have hlen : (m.take 16).length = min 16 m.length := List.length_take
    rw [pieces, ctrBlocks, ctrAdd_ctrAdd bits hcb]
    by_cases hfirst : j < 16
    · rw [List.getD_append _ _ _ _ (by simp; omega), getD_xorBytes _ _ (by simp) _ (by omega),
        getD_aesEncKey key _ (by omega) (by omega), Nat.div_eq_of_lt hfirst, Nat.mod_eq_of_lt hfirst, Nat.add_zero,
        getD_take_of_lt m hfirst]
    · obtain ⟨l, rfl⟩ : ∃ l, j = 16 + l := ⟨j - 16, by omega⟩
      have hblock : (xorBytes (m.take 16) (aesEncKey key (ctrAdd bits cb i) (m.take 16).length)).length = 16 := by
        simp; omega
      have hdiv : i + (16 + l) / 16 = i + 1 + l / 16 := by omega
      rw [List.getD_append_right _ _ _ _ (by omega), hblock, Nat.add_sub_cancel_left,
        ih (i + 1) (m.drop 16) l (by omega) (by rw [List.length_drop]; omega), hdiv, Nat.add_mod_left, getD_drop]

/-- Byte j of CtrXor is the message byte with byte `j mod 16` of the encrypted counter block `o/16 + j/16` (R275). -/
theorem getD_ctrXor (bits : CtrCounterBits) (key m : Bytes) {n : Bytes} (hn : n.length ≤ 16) (o : Nat) {j : Nat}
    (hj : j < m.length) :
    (ctrXor bits key n m o).getD j 0 =
      m.getD j 0 ^^^ (aesEncKey key (ctrAdd bits (ctrBlock0 n) (o / 16 + j / 16)) 16).getD (j % 16) 0 :=
  getD_ctrBlocks_pieces bits key (length_ctrBlock0 hn) _ _ m j
    (hj.trans_le (ceilDiv_mul_ge m.length 16 (by omega))) hj

/-- CtrXor is its own inverse (R283). -/
theorem ctrXor_ctrXor (bits : CtrCounterBits) (key m : Bytes) {n : Bytes} (hn : n.length ≤ 16) (o : Nat) :
    ctrXor bits key n (ctrXor bits key n m o) o = m := by
  refine bytes_ext _ _ (by simp) fun j hj => ?_
  rw [length_ctrXor, length_ctrXor] at hj
  rw [getD_ctrXor bits key _ hn o (by simpa using hj), getD_ctrXor bits key m hn o hj, BitVec.xor_assoc,
    BitVec.xor_self, BitVec.xor_zero]

/-- CtrXor of a message is CtrXor of its first k bytes, then of the rest from offset `o + k`, for whole blocks k. -/
theorem ctrXor_take_append_drop (bits : CtrCounterBits) (key m : Bytes) {n : Bytes} (hn : n.length ≤ 16) (o : Nat)
    {k : Nat} (hk : k % 16 = 0) :
    ctrXor bits key n m o = ctrXor bits key n (m.take k) o ++ ctrXor bits key n (m.drop k) (o + k) := by
  refine bytes_ext _ _ (by simp; omega) fun j hj => ?_
  rw [length_ctrXor] at hj
  rw [getD_ctrXor bits key m hn o hj]
  by_cases hjk : j < k
  · have htake : j < (m.take k).length := by rw [List.length_take]; omega
    rw [List.getD_append _ _ _ _ (by simpa using htake), getD_ctrXor bits key _ hn o htake,
      getD_take_of_lt m hjk]
  · obtain ⟨l, rfl⟩ : ∃ l, j = k + l := ⟨j - k, by omega⟩
    have hfirst : (ctrXor bits key n (m.take k) o).length = k := by simp; omega
    have hdiv : (o + k) / 16 + l / 16 = o / 16 + (k + l) / 16 := by omega
    have hmod : (k + l) % 16 = l % 16 := by omega
    rw [List.getD_append_right _ _ _ _ (by omega), hfirst, Nat.add_sub_cancel_left,
      getD_ctrXor bits key _ hn _ (by rw [List.length_drop]; omega), hdiv, hmod, getD_drop]

/-- Settles O16, each part a fact about the bytes of CtrXor. -/
theorem ctrXorIsABlockKeystream : Obligations.CtrXorIsABlockKeystream := fun bits key n m o hn =>
  ⟨length_ctrXor bits key n m o, fun _ hj => getD_ctrXor bits key m hn o hj, ctrXor_ctrXor bits key m hn o,
    fun _ hk => ctrXor_take_append_drop bits key m hn o hk⟩

/-- Settles O18: both transforms start from the same counter block. -/
theorem ctrOffsetMovesTheCounter : Obligations.CtrOffsetMovesTheCounter := by
  intro bits key n m j hn
  have hlen : (ctrBlock0 n).length = 16 := length_ctrBlock0 (by omega)
  constructor
  · have hmoved : (ctrAdd bits (ctrBlock0 n) j).length = 16 := by cases bits <;> simp [ctrAdd, hlen]
    have hblock : ctrBlock0 (ctrAdd bits (ctrBlock0 n) j) = ctrAdd bits (ctrBlock0 n) j := by
      rw [ctrBlock0, hmoved]
      exact List.append_nil _
    rw [ctrXor, ctrXor, hblock, ctrAdd_ctrAdd bits hlen, Nat.mul_div_cancel_left j (by omega)]
    rfl
  · simp [ctrAdd, ctrBlock0, nonceInc, hn]

/-! The commands. -/

/-- A command whose output of n bytes fits in DST writes it there and leaves n in OUT_LEN. -/
theorem output_of_capacity {s : State} (hwf : Memory.wf s.params.dmemSize s.dmem = true) {out : Bytes} {n : Nat}
    (hlen : out.length = n) (hcap : n ≤ s.snap.dstLen.toNat) :
    Outputs s out (s.output out) ∧ (s.output out).outLen.toNat = n := by
  refine ⟨output_outputs s out hwf, ?_⟩
  rw [State.output_outLen, hlen, BitVec.toNat_ofNat]
  omega

/-- As `output_of_capacity`, for an output as long as an operand register says. -/
theorem output_of_register {s : State} (hwf : Memory.wf s.params.dmemSize s.dmem = true) {out : Bytes} {w : Word}
    (hlen : out.length = w.toNat) (hcap : w.toNat ≤ s.snap.dstLen.toNat) :
    Outputs s out (s.output out) ∧ (s.output out).outLen = w :=
  (output_of_capacity hwf hlen hcap).imp_right BitVec.eq_of_toNat_eq

/-- The checks the CBC commands share pass (R280, R281). -/
theorem cbcChecks_pass {s : State} (hfit : s.allFit [s.keyRegion, s.nonceRegion, s.srcRegion, s.dstRegion])
    (haad : s.snap.aadLen = 0) (hkey : s.snap.keyLen.toNat ∈ aesKeyLens) (hnonce : s.snap.nonceLen.toNat = 16)
    (hksi : s.ksi = 0) : firstError s.cbcChecks = none := by
  simp [State.cbcChecks, addressCheck_pass s _ hfit, aadCheck_pass s haad, keyLenCheck_pass s _ hkey,
    nonceLenCheck_pass s [16] (by simp [hnonce]), zeroOffsetCheck_pass s hksi]

/-- Settles O12: the checks pass, and the ciphertext is as long as the check of DST_LEN allows for. -/
theorem aesCbcEncCompletes : Obligations.AesCbcEncCompletes := by
  intro s hwf hfit haad hkey hnonce hksi hcap
  have hpass : firstError (s.checks .aesCbcEnc) = none := by
    simp [State.checks, firstError_append, cbcChecks_pass hfit haad hkey hnonce hksi,
      capacityCheck_pass s s.cbcOutLen hcap]
  exact ⟨_, exec_work .aesCbcEnc s hpass,
    output_of_capacity hwf (by rw [length_cbcEnc, length_input]; rfl) hcap⟩

/-- Settles O13: the checks pass, and each outcome is a branch of the work. -/
theorem aesCbcDecCompletes : Obligations.AesCbcDecCompletes := by
  intro s hwf hfit haad hkey hnonce hksi hpos hmul
  have hpass : firstError (s.checks .aesCbcDec) = none := by
    simp [State.checks, firstError_append, cbcChecks_pass hfit haad hkey hnonce hksi, State.raggedCheck, hpos, hmul]
  have hexec : exec .aesCbcDec s = .next s.cbcDecWork := exec_work .aesCbcDec s hpass
  refine ⟨fun hbad => ⟨_, hexec, ?_⟩,
    fun p hp => ⟨fun hlong => ⟨_, hexec, ?_⟩, fun hroom => ⟨_, hexec, ?_⟩⟩⟩
  · rw [State.cbcDecWork, hbad]
    exact raise_fails s _
  · simp only [State.cbcDecWork, hp, if_pos hlong]
    exact raise_fails s _
  · simp only [State.cbcDecWork, hp, if_neg hroom.not_gt]
    exact output_outputs s p hwf

/-- The checks of the CTR commands pass (R282, R283). -/
theorem ctrChecks_pass {s : State} (hfit : s.allFit [s.keyRegion, s.nonceRegion, s.srcRegion, s.dstRegion])
    (haad : s.snap.aadLen = 0) (hkey : s.snap.keyLen.toNat ∈ aesKeyLens)
    (hnonce : s.snap.nonceLen.toNat ∈ ctrNonceLengths s.params.ctrNonceLens) (hblock : s.ksi % 16 = 0)
    (hrange : s.ksi / 16 < 2 ^ 32) (hcap : s.snap.srcLen.toNat ≤ s.snap.dstLen.toNat) :
    firstError s.ctrChecks = none := by
  have hoffset : ¬ (s.ksi % 16 ≠ 0 ∨ s.ksi / 16 ≥ 2 ^ 32) := by omega
  simp only [State.ctrChecks, addressCheck_pass s _ hfit, aadCheck_pass s haad, keyLenCheck_pass s _ hkey,
    nonceLenCheck_pass s _ hnonce, decide_eq_false hoffset, capacityCheck_pass s _ hcap]
  rfl

/-- Settles O15: both commands have the same checks and the same work. -/
theorem aesCtrCompletes : Obligations.AesCtrCompletes := by
  intro s hwf hfit haad hkey hnonce hblock hrange hcap i hi
  have hpass : firstError s.ctrChecks = none := ctrChecks_pass hfit haad hkey hnonce hblock hrange hcap
  have hexec : exec i s = .next (s.output s.ctrOut) := by
    rcases hi with rfl | rfl
    · exact exec_work .aesCtrEnc s hpass
    · exact exec_work .aesCtrDec s hpass
  exact ⟨_, hexec, output_of_register hwf (by rw [length_ctrXor, length_input]; rfl) hcap⟩

/-- Settles O17: the checks pass, and adding words is adding modulo 2^32. -/
theorem nonceIncCompletes : Obligations.NonceIncCompletes := by
  intro s hwf hfit hmin hmax hcap
  have hlen : (s.input s.nonceRegion).length = s.snap.nonceLen.toNat := length_input s s.nonceRegion
  have hpass : firstError (s.checks .nonceInc) = none := by
    have hrange : ¬ (s.snap.nonceLen.toNat < 4 ∨ s.snap.nonceLen.toNat > 16) := by omega
    simp only [State.checks, State.nonceIncChecks, addressCheck_pass s _ hfit, decide_eq_false hrange,
      capacityCheck_pass s _ hcap]
    rfl
  have hout : nonceInc (s.input s.nonceRegion) s.snap.arg.toNat =
      (s.input s.nonceRegion).take (s.snap.nonceLen.toNat - 4) ++
        toBe32 (be32 (s.input s.nonceRegion) (s.snap.nonceLen.toNat - 4) + s.snap.arg) := by
    simp [nonceInc, hlen, BitVec.ofNat_add]
  rw [← hout]
  exact ⟨_, exec_work .nonceInc s hpass,
    output_of_register hwf (by rw [length_nonceInc _ _ (by omega), hlen]) hcap⟩

end Sys2Proof.Machine

namespace Sys2Proof.Machine

/-! ## ChaCha20, HChaCha20 and XChaCha20 -/

/-! The keystream. -/

/-- The keystream from offset o is its first a bytes, then the keystream from offset `o + a`, for every a (R315). -/
theorem chachaStream_add (k n : Bytes) (o a b : Nat) :
    chachaStream k n o (a + b) = chachaStream k n o a ++ chachaStream k n (o + a) b := by
  refine bytes_ext _ _ (by simp) fun j hj => ?_
  rw [length_chachaStream] at hj
  rw [getD_chachaStream k n o _ j hj]
  by_cases hja : j < a
  · rw [List.getD_append _ _ _ _ (by simpa using hja), getD_chachaStream k n o a j hja]
  · obtain ⟨l, rfl⟩ : ∃ l, j = a + l := ⟨j - a, by omega⟩
    rw [List.getD_append_right _ _ _ _ (by simp), length_chachaStream, Nat.add_sub_cancel_left,
      getD_chachaStream k n _ b l (by omega), Nat.add_assoc]

/-- Byte j of ChaXor is the message byte with the keystream byte at offset `o + j` (R315). -/
theorem getD_chachaXor (k n m : Bytes) (o : Nat) {j : Nat} (hj : j < m.length) :
    (chachaXor k n m o).getD j 0 =
      m.getD j 0 ^^^ (chachaBlock k (BitVec.ofNat 32 ((o + j) / 64)) n).getD ((o + j) % 64) 0 := by
  rw [chachaXor, getD_xorBytes _ _ (by simp) j hj, getD_chachaStream k n o _ j hj]

/-- ChaXor is its own inverse: the keystream depends on the message by its length alone (R315). -/
theorem chachaXor_chachaXor (k n m : Bytes) (o : Nat) : chachaXor k n (chachaXor k n m o) o = m := by
  have hlen : (chachaXor k n m o).length = m.length := length_chachaXor k n m o
  rw [chachaXor, hlen, chachaXor, xorBytes_cancel _ _ (by simp)]

/-- ChaXor of a message in two parts goes on in the second part where the first ends (R315). -/
theorem chachaXor_append (k n a b : Bytes) (o : Nat) :
    chachaXor k n (a ++ b) o = chachaXor k n a o ++ chachaXor k n b (o + a.length) := by
  rw [chachaXor, List.length_append, chachaStream_add]
  exact List.zipWith_append (length_chachaStream k n o a.length).symm

/-- ChaXor may be split at every byte; past the end of the message the second part is empty (R315). -/
theorem chachaXor_take_append_drop (k n m : Bytes) (o c : Nat) :
    chachaXor k n m o = chachaXor k n (m.take c) o ++ chachaXor k n (m.drop c) (o + c) := by
  rcases Nat.le_total c m.length with hc | hc
  · have hlen : (m.take c).length = c := List.length_take_of_le hc
    conv_lhs => rw [← List.take_append_drop c m, chachaXor_append, hlen]
  · rw [List.take_of_length_le hc, List.drop_of_length_le hc]
    exact (List.append_nil _).symm

/-- Settles O21, each part a fact about the keystream. -/
theorem chaXorIsAByteKeystream : Obligations.ChaXorIsAByteKeystream := fun k n m o =>
  ⟨length_chachaXor k n m o, fun _ hj => getD_chachaXor k n m o hj, chachaXor_chachaXor k n m o,
    chachaXor_take_append_drop k n m o⟩

/-! The commands. -/

/-- The checks of CHACHA20_BLOCK and HCHACHA20 pass (R320, R323). -/
theorem keyedBlockChecks_pass {s : State} {nonceLen outLen : Nat}
    (hfit : s.allFit [s.keyRegion, s.nonceRegion, s.dstRegion]) (hkey : s.snap.keyLen.toNat = 32)
    (hnonce : s.snap.nonceLen.toNat = nonceLen) (hcap : outLen ≤ s.snap.dstLen.toNat) :
    firstError (s.keyedBlockChecks nonceLen outLen) = none := by
  simp [State.keyedBlockChecks, addressCheck_pass s _ hfit, keyLenCheck_pass s [32] (by simp [hkey]),
    nonceLenCheck_pass s [nonceLen] (by simp [hnonce]), capacityCheck_pass s _ hcap]

/-- A command whose checks pass and whose work is an output as long as the register value w says completes with that
output and w in OUT_LEN. -/
theorem exec_outputs_of_register {s : State} {i : Instr} {out : Bytes} {w : Word}
    (hwf : Memory.wf s.params.dmemSize s.dmem = true) (hpass : firstError (s.checks i) = none)
    (hwork : s.work i = s.output out) (hlen : out.length = w.toNat) (hcap : w.toNat ≤ s.snap.dstLen.toNat) :
    ∃ t, exec i s = .next t ∧ Outputs s out t ∧ t.outLen = w :=
  ⟨_, hwork ▸ exec_work i s hpass, output_of_register hwf hlen hcap⟩

/-- Settles O19: the checks pass, and each output has the length the check of DST_LEN allows for. -/
theorem chaChaBlocksComplete : Obligations.ChaChaBlocksComplete := by
  intro s hwf hfit hkey
  constructor
  · intro hnonce hcap
    exact exec_outputs_of_register (w := 64) hwf (keyedBlockChecks_pass hfit hkey hnonce hcap) rfl
      (length_chachaBlock ..) hcap
  · intro hnonce hcap
    exact exec_outputs_of_register (w := 32) hwf (keyedBlockChecks_pass hfit hkey hnonce hcap) rfl
      (length_hchacha ..) hcap

/-- The checks of the stream commands pass (R321, R324). -/
theorem streamChecks_pass {s : State} {nonceLen : Nat}
    (hfit : s.allFit [s.keyRegion, s.nonceRegion, s.srcRegion, s.dstRegion]) (haad : s.snap.aadLen = 0)
    (hkey : s.snap.keyLen.toNat = 32) (hrange : (s.ksi + max s.snap.srcLen.toNat 1 - 1) / 64 < 2 ^ 32)
    (hcap : s.snap.srcLen.toNat ≤ s.snap.dstLen.toNat) (hnonce : s.snap.nonceLen.toNat = nonceLen) :
    firstError (s.streamChecks nonceLen) = none := by
  have hoffset : s.streamOffsetCheck = (false, .invalidOffset) :=
    congrArg (·, ErrCode.invalidOffset) (decide_eq_false (Nat.not_le_of_lt hrange))
  simp [State.streamChecks, addressCheck_pass s _ hfit, aadCheck_pass s haad, hoffset,
    keyLenCheck_pass s [32] (by simp [hkey]), nonceLenCheck_pass s [nonceLen] (by simp [hnonce]),
    capacityCheck_pass s _ hcap]

/-- Settles O20: both commands of a pair have the same checks and the same work, whose output is as long as SRC. -/
theorem chaChaStreamsComplete : Obligations.ChaChaStreamsComplete := by
  intro s hwf hfit haad hkey hrange hcap
  have hlen : ∀ k n : Bytes, (chachaXor k n (s.input s.srcRegion) s.ksi).length = s.snap.srcLen.toNat :=
    fun k n => (length_chachaXor k n _ _).trans (length_input s s.srcRegion)
  constructor
  · intro hnonce i hi
    have hpass := streamChecks_pass hfit haad hkey hrange hcap hnonce
    rcases hi with rfl | rfl
    · exact exec_outputs_of_register hwf hpass rfl (hlen _ _) hcap
    · exact exec_outputs_of_register hwf hpass rfl (hlen _ _) hcap
  · intro hnonce i hi
    have hpass := streamChecks_pass hfit haad hkey hrange hcap hnonce
    rcases hi with rfl | rfl
    · exact exec_outputs_of_register hwf hpass rfl (hlen _ _) hcap
    · exact exec_outputs_of_register hwf hpass rfl (hlen _ _) hcap

end Sys2Proof.Machine

namespace Sys2Proof.Machine

/-! ## Poly1305 and the ChaCha20-Poly1305 AEAD -/

/-! The sink: what an open context holds, as a function of the bytes added. -/

/-- Every byte string is whole blocks of n bytes and a rest shorter than a block. -/
theorem exists_whole_rest {n : Nat} (hn : 0 < n) (d : Bytes) :
    ∃ whole rest, d = whole ++ rest ∧ whole.length % n = 0 ∧ rest.length < n := by
  have hle : n * (d.length / n) ≤ d.length := Nat.mul_div_le _ _
  refine ⟨d.take (n * (d.length / n)), d.drop (n * (d.length / n)), (List.take_append_drop _ _).symm, ?_, ?_⟩
  · rw [List.length_take_of_le hle, Nat.mul_mod_right]
  · rw [List.length_drop, ← Nat.mod_eq_sub]
    exact Nat.mod_lt _ hn

/-- A string shorter than a block is its own only chunk, and an empty one has none. -/
theorem chunks_of_lt {n : Nat} {b : Bytes} (hb : b.length < n) : chunks n b = if b = [] then [] else [b] := by
  rw [chunks_eq n (by omega), Nat.div_eq_of_lt hb, Nat.mod_eq_of_lt hb]
  simp [pieces]

/-- POLY1305_ADD of whole blocks and a rest on a fresh context steps the blocks and keeps the rest (R361). -/
theorem polyAdd_polyInit_append (key : Bytes) {whole rest : Bytes} (hwhole : whole.length % 16 = 0)
    (hrest : rest.length < 16) :
    polyAdd (polyInit key) (whole ++ rest) =
      ⟨polyClamp key, polySKey key, (chunks 16 whole).foldl (polyStep (polyClamp key)) 0, rest⟩ := by
  obtain ⟨k, hk⟩ := Nat.dvd_of_mod_eq_zero hwhole
  have hfull : (whole ++ rest).length / 16 = k := by
    rw [List.length_append]
    omega
  simp only [polyAdd, polyInit, List.nil_append, hfull]
  rw [pieces_append 16 k whole rest hk.ge, ← chunks_of_mul 16 k (by decide) whole hk, ← hk, List.drop_left]

/-- The context that holds the bytes d is the one a single ADD of d leaves after INIT, and no other (R354). -/
theorem polyHolds_iff (s : State) (key d : Bytes) :
    s.polyHolds key d ↔ s.poly1305 = ⟨true, polyAdd (polyInit key) d⟩ := by
  constructor
  · rintro ⟨hopen, hbuf, hr, hs, whole, hd, hwhole, hacc⟩
    rw [hd, polyAdd_polyInit_append key hwhole hbuf, ← hacc, ← hr, ← hs, ← hopen]
  · intro h
    obtain ⟨whole, rest, rfl, hwhole, hrest⟩ := exists_whole_rest (by decide : 0 < 16) d
    rw [polyAdd_polyInit_append key hwhole hrest] at h
    rw [State.polyHolds, h]
    exact ⟨rfl, hrest, rfl, rfl, whole, rfl, hwhole, rfl⟩

/-- ADD of no bytes on a fresh context changes nothing (R354). -/
theorem polyAdd_polyInit_nil (key : Bytes) : polyAdd (polyInit key) [] = polyInit key := by
  simp [polyAdd, polyInit, pieces]

/-- POLY1305_CLOSE steps the rest unless it is empty (R362). -/
theorem polyFinal_eq (c : Poly1305Ctx) :
    polyFinal c = polyTag (if c.buf = [] then c.acc else polyStep c.r c.acc c.buf) c.s := by
  rcases hb : c.buf with _ | ⟨x, b⟩ <;> simp [polyFinal, hb]

/-- The tag of a context that holds d is Poly1305 of d: the rest is the last chunk (R353, R354). -/
theorem polyFinal_polyAdd_polyInit (key d : Bytes) : polyFinal (polyAdd (polyInit key) d) = poly1305 key d := by
  obtain ⟨whole, rest, rfl, hwhole, hrest⟩ := exists_whole_rest (by decide : 0 < 16) d
  obtain ⟨k, hk⟩ := Nat.dvd_of_mod_eq_zero hwhole
  rw [polyAdd_polyInit_append key hwhole hrest, polyFinal_eq, poly1305,
    chunks_append_whole 16 (by decide) k whole rest hk, ← chunks_of_mul 16 k (by decide) whole hk, List.foldl_append,
    chunks_of_lt hrest]
  split <;> rfl

/-- Adding the pieces of a message one by one adds the whole (R354). -/
theorem foldl_polyAdd_polyInit (key : Bytes) (ds : List Bytes) :
    ds.foldl polyAdd (polyInit key) = polyAdd (polyInit key) ds.flatten := by
  induction ds using List.reverseRecOn with
  | nil => exact (polyAdd_polyInit_nil key).symm
  | append_singleton ds d ih => rw [List.foldl_concat, ih, polyAdd_add, List.flatten_concat]

/-! The commands of the sink. -/

/-- A command that ends without ERR has done its work (R471, R472). -/
theorem eq_work_of_exec {i : Instr} {s t : State} (h : exec i s = .next t) (hok : t.err = false) : t = s.work i := by
  rw [exec_eq] at h
  obtain rfl := Host.Outcome.next.inj h
  unfold State.outcome at hok ⊢
  split at hok
  · cases hok
  · rfl

/-- Settles O23: each command is a step of `polyAdd`, by what a context that holds d is. -/
theorem poly1305SinkIsPoly1305 : Obligations.Poly1305SinkIsPoly1305 := by
  refine ⟨fun s t h hok => ?_, fun s t key d hd h hok => ?_, fun s t key d hwf hd h hok => ?_, fun key ds => ?_⟩
  · obtain rfl := eq_work_of_exec h hok
    rw [polyHolds_iff, polyAdd_polyInit_nil]
    rfl
  · obtain rfl := eq_work_of_exec h hok
    rw [polyHolds_iff] at hd ⊢
    rw [← polyAdd_add]
    simp [State.work, hd]
  · obtain rfl := eq_work_of_exec h hok
    rw [polyHolds_iff] at hd
    rw [← polyFinal_polyAdd_polyInit]
    simp only [State.work, hd]
    exact output_outputs _ _ hwf
  · rw [foldl_polyAdd_polyInit, polyFinal_polyAdd_polyInit]

/-- Settles O22: the checks pass, and the work is the sink function written out. -/
theorem poly1305CommandsComplete : Obligations.Poly1305CommandsComplete := by
  refine fun s => ⟨fun hfit hkey => ?_, fun hfit hopen => ?_, fun hwf hfit hopen hcap => ?_⟩
  · have hpass : firstError (s.checks .poly1305Init) = none := by
      simp [State.checks, addressCheck_pass s _ hfit, keyLenCheck_pass s [32] (by simp [hkey])]
    have hskey : slice (s.input s.keyRegion) 16 16 = (s.input s.keyRegion).drop 16 :=
      List.take_of_length_le (by simp [State.keyRegion, hkey])
    rw [← hskey]
    exact ⟨_, exec_work .poly1305Init s hpass, finish_succeeds _ 0⟩
  · have hpass : firstError (s.checks .poly1305Add) = none := by
      simp [State.checks, addressCheck_pass s _ hfit, hopen]
    exact ⟨_, exec_work .poly1305Add s hpass, finish_succeeds _ 0⟩
  · have hpass : firstError (s.checks .poly1305Close) = none := by
      simp [State.checks, addressCheck_pass s _ hfit, hopen, capacityCheck_pass s _ hcap]
    rw [← polyFinal_eq]
    exact ⟨_, exec_work .poly1305Close s hpass, output_outputs _ _ hwf, by simp [State.work]⟩

/-! The AEAD. -/

/-- The tag comparison of AeadDec accepts the tag of the inputs (R357). -/
theorem aeadDec_aeadTag (k n a c : Bytes) : aeadDec k n a c (aeadTag k n a c) = some (chachaXor k n c 64) :=
  if_pos ((ctEq_iff _ _).mpr rfl)

/-- It rejects every other one (R357). -/
theorem aeadDec_of_ne {k n a c t : Bytes} (h : t ≠ aeadTag k n a c) : aeadDec k n a c t = none :=
  if_neg fun heq => h ((ctEq_iff _ _).mp heq).symm

/-- Settles O26: the right tag is accepted, and ChaXor undoes itself. -/
theorem aeadAcceptsOnlyItsTag : Obligations.AeadAcceptsOnlyItsTag := fun k n a =>
  ⟨fun m => by rw [aeadDec_aeadTag, aeadCipher, chachaXor_chachaXor], fun _ _ h => aeadDec_of_ne h⟩

/-- The checks of the AEAD commands pass (R365, R366). -/
theorem aeadChecks_pass {s : State} {nonceLen : Nat}
    (hfit : s.allFit [s.keyRegion, s.nonceRegion, s.aadRegion, s.srcRegion, s.dstRegion, s.tagRegion])
    (hkey : s.snap.keyLen.toNat = 32) (hksi : s.ksi = 0) (hcap : s.snap.srcLen.toNat ≤ s.snap.dstLen.toNat)
    (hnonce : s.snap.nonceLen.toNat = nonceLen) : firstError (s.aeadChecks nonceLen) = none := by
  simp [State.aeadChecks, addressCheck_pass s _ hfit, keyLenCheck_pass s [32] (by simp [hkey]),
    nonceLenCheck_pass s [nonceLen] (by simp [hnonce]), zeroOffsetCheck_pass s hksi, capacityCheck_pass s _ hcap]

/-- Sealing writes the ciphertext and then the tag, whose bytes stand where the two overlap (R365, R111). -/
theorem seal_seals {s : State} (hwf : Memory.wf s.params.dmemSize s.dmem = true) (c t : Bytes) :
    Seals s c t (s.seal c t) := by
  have hm : Memory.wfFrom 0 s.dmem = true := wfFrom_of_wf hwf
  refine ⟨fun a => ?_, rfl⟩
  rw [seal_dmem, Memory.read_writeBytes (Memory.wfFrom_writeBytes hm _ c), Memory.read_writeBytes hm]

/-- Settles O24: the checks pass, and the work of both commands seals, each under its own key and nonce. -/
theorem aeadEncryptionsComplete : Obligations.AeadEncryptionsComplete := by
  intro s hwf hfit hkey hksi hcap k n i hi
  have hexec : exec i s = .next (s.aeadEncrypt k n) := by
    rcases hi with ⟨rfl, hnonce, rfl, rfl⟩ | ⟨rfl, hnonce, rfl, rfl⟩
    · exact exec_work .c20p1305Enc s (aeadChecks_pass hfit hkey hksi hcap hnonce)
    · exact exec_work .xc20p1305Enc s (aeadChecks_pass hfit hkey hksi hcap hnonce)
  refine ⟨_, hexec, seal_seals hwf _ _, ?_⟩
  rw [State.aeadEncrypt, seal_outLen, length_aeadCipher, length_input]
  exact BitVec.ofNat_toNat _ _

/-- Settles O25: the checks pass, and the tag decides between the two outcomes of the work. -/
theorem aeadDecryptionsComplete : Obligations.AeadDecryptionsComplete := by
  intro s hwf hfit hkey hksi hcap k n i hi
  have hexec : exec i s = .next (s.aeadDecrypt k n) := by
    rcases hi with ⟨rfl, hnonce, rfl, rfl⟩ | ⟨rfl, hnonce, rfl, rfl⟩
    · exact exec_work .c20p1305Dec s (aeadChecks_pass hfit hkey hksi hcap hnonce)
    · exact exec_work .xc20p1305Dec s (aeadChecks_pass hfit hkey hksi hcap hnonce)
  constructor
  · intro htag
    have hwork : s.aeadDecrypt k n = s.output (chachaXor k n (s.input s.srcRegion) 64) := by
      have haccept : s.input s.tagRegion = aeadTag k n (s.input s.aadRegion) (s.input s.srcRegion) := htag
      rw [State.aeadDecrypt, haccept, aeadDec_aeadTag]
    have hlen : (chachaXor k n (s.input s.srcRegion) 64).length = s.snap.srcLen.toNat :=
      (length_chachaXor k n _ _).trans (length_input s s.srcRegion)
    exact ⟨_, hwork ▸ hexec, output_of_register hwf hlen hcap⟩
  · intro htag
    have hwork : s.aeadDecrypt k n = s.raise .authenticationFailure := by
      rw [State.aeadDecrypt, aeadDec_of_ne htag]
    exact ⟨_, hwork ▸ hexec, raise_fails s _⟩

end Sys2Proof.Machine

namespace Sys2Proof.Machine

/-! ## The hash sinks

An open context is determined by the bytes added since INIT: it is the one that a single ADD of them leaves on a fresh
context. For SHA-256 and SHA-512 that is proved once, for any block length and compression. -/

/-! The checks of the sink commands. -/

/-- The checks of an ADD command pass (R401, R411, R426). -/
theorem addChecks_pass {s : State} {isOpen tooLong : Bool} (hfit : s.allFit [s.srcRegion]) (hopen : isOpen = true)
    (hshort : tooLong = false) : firstError (s.addChecks isOpen tooLong) = none := by
  simp [State.addChecks, addressCheck_pass s _ hfit, hopen, hshort]

/-- The checks of a CLOSE command pass (R402, R412, R427). -/
theorem closeChecks_pass {s : State} {isOpen : Bool} {n : Nat} (hfit : s.allFit [s.dstRegion]) (hopen : isOpen = true)
    (hcap : n ≤ s.snap.dstLen.toNat) : firstError (s.closeChecks isOpen n) = none := by
  simp [State.closeChecks, addressCheck_pass s _ hfit, hopen, capacityCheck_pass s _ hcap]

/-- An ADD past the length limit fails (R396, R409, R420). -/
theorem addChecks_tooLong {s : State} {isOpen tooLong : Bool} (hfit : s.allFit [s.srcRegion]) (hopen : isOpen = true)
    (hlong : tooLong = true) : firstError (s.addChecks isOpen tooLong) = some .invalidArgument := by
  simp [State.addChecks, addressCheck_pass s _ hfit, hopen, hlong]

/-! Adding piece by piece. -/

/-- Where adding twice is adding the concatenation and adding nothing changes nothing, adding the pieces of a message
one by one adds the whole. -/
theorem foldl_add_flatten {α : Type} {add : α → Bytes → α} (hadd : ∀ c d e, add (add c d) e = add c (d ++ e)) {c : α}
    (hnil : add c [] = c) (ds : List Bytes) : ds.foldl add c = add c ds.flatten := by
  induction ds using List.reverseRecOn with
  | nil => exact hnil.symm
  | append_singleton ds d ih => rw [List.foldl_concat, ih, hadd, List.flatten_concat]

/-! SHA-256 and SHA-512. -/

section Sha2

variable {w blk : Nat} {comp : Hash8 w → Bytes → Hash8 w} {h0 : Hash8 w}

/-- R395 and R409 with the block length, the compression and the initial value left open: the sink k is open and holds
the bytes d. -/
def Sha2Holds (blk : Nat) (comp : Hash8 w → Bytes → Hash8 w) (h0 : Hash8 w) (k : Sink (Sha2Ctx w)) (d : Bytes) : Prop :=
  k.isOpen = true ∧ k.ctx.buf.length < blk ∧ k.ctx.total = d.length ∧
  ∃ whole, d = whole ++ k.ctx.buf ∧ whole.length % blk = 0 ∧ k.ctx.h = (chunks blk whole).foldl comp h0

theorem sha256Holds_def (s : State) (d : Bytes) : s.sha256Holds d = Sha2Holds 64 comp256 h256 s.sha256 d := rfl

theorem sha512Holds_def (s : State) (d : Bytes) : s.sha512Holds d = Sha2Holds 128 comp512 h512 s.sha512 d := rfl

/-- ADD of no bytes on a fresh context changes nothing. -/
theorem sha2Add_fresh_nil : sha2Add blk comp ⟨h0, [], 0⟩ [] = ⟨h0, [], 0⟩ := by
  simp [sha2Add, pieces]

/-- ADD of whole blocks and a rest on a fresh context compresses the blocks and keeps the rest (R401, R411). -/
theorem sha2Add_fresh_append {whole rest : Bytes} (hwhole : whole.length % blk = 0) (hrest : rest.length < blk) :
    sha2Add blk comp ⟨h0, [], 0⟩ (whole ++ rest) =
      ⟨(chunks blk whole).foldl comp h0, rest, (whole ++ rest).length⟩ := by
  obtain ⟨k, hk⟩ := Nat.dvd_of_mod_eq_zero hwhole
  have hblk : 0 < blk := Nat.zero_lt_of_lt hrest
  have hfull : (whole ++ rest).length / blk = k := by
    rw [List.length_append, hk, Nat.mul_add_div hblk, Nat.div_eq_of_lt hrest, Nat.add_zero]
  simp only [sha2Add, List.nil_append, hfull, Nat.zero_add]
  rw [pieces_append blk k whole rest hk.ge, ← chunks_of_mul blk k hblk whole hk, ← hk, List.drop_left]

/-- The context that holds the bytes d is the one a single ADD of d leaves after INIT, and no other (R395, R409). -/
theorem sha2Holds_iff (hblk : 0 < blk) (k : Sink (Sha2Ctx w)) (d : Bytes) :
    Sha2Holds blk comp h0 k d ↔ k = ⟨true, sha2Add blk comp ⟨h0, [], 0⟩ d⟩ := by
  constructor
  · rintro ⟨hopen, hbuf, htotal, whole, hd, hwhole, hh⟩
    rw [hd, sha2Add_fresh_append hwhole hbuf, ← hd, ← hh, ← htotal, ← hopen]
  · rintro rfl
    obtain ⟨whole, rest, rfl, hwhole, hrest⟩ := exists_whole_rest hblk d
    rw [sha2Add_fresh_append hwhole hrest]
    exact ⟨rfl, hrest, rfl, whole, rfl, hwhole, rfl⟩

/-- INIT leaves a sink that holds no bytes (R400, R410). -/
theorem sha2Holds_fresh (hblk : 0 < blk) : Sha2Holds blk comp h0 ⟨true, ⟨h0, [], 0⟩⟩ [] := by
  rw [sha2Holds_iff hblk, sha2Add_fresh_nil]

/-- ADD of e on a sink that holds d leaves one that holds d and e (R395, R409). -/
theorem Sha2Holds.add (hblk : 0 < blk) {k : Sink (Sha2Ctx w)} {d : Bytes} (h : Sha2Holds blk comp h0 k d) (e : Bytes) :
    Sha2Holds blk comp h0 ⟨true, sha2Add blk comp k.ctx e⟩ (d ++ e) := by
  rw [sha2Holds_iff hblk] at h ⊢
  rw [h, sha2Add_add blk hblk]

theorem foldl_sha2Add_fresh (hblk : 0 < blk) (ds : List Bytes) :
    ds.foldl (sha2Add blk comp) ⟨h0, [], 0⟩ = sha2Add blk comp ⟨h0, [], 0⟩ ds.flatten :=
  foldl_add_flatten (sha2Add_add blk hblk comp) sha2Add_fresh_nil ds

/-- Compressing what a context that holds d has left and what follows is compressing d and what follows. -/
theorem foldl_chunks_sha2Add_fresh (hblk : 0 < blk) (d p : Bytes) :
    (chunks blk ((sha2Add blk comp ⟨h0, [], 0⟩ d).buf ++ p)).foldl comp (sha2Add blk comp ⟨h0, [], 0⟩ d).h =
      (chunks blk (d ++ p)).foldl comp h0 := by
  obtain ⟨whole, rest, rfl, hwhole, hrest⟩ := exists_whole_rest hblk d
  obtain ⟨k, hk⟩ := Nat.dvd_of_mod_eq_zero hwhole
  rw [sha2Add_fresh_append hwhole hrest, List.append_assoc, chunks_append_whole blk hblk k whole _ hk,
    List.foldl_append, chunks_of_mul blk k hblk whole hk]

theorem sha2Add_fresh_total (d : Bytes) : (sha2Add blk comp ⟨h0, [], 0⟩ d).total = d.length := Nat.zero_add _

end Sha2

/-- CLOSE after one ADD of d gives the hash of d (R394, R402). -/
theorem sha256Final_sha256Add_sha256Init (d : Bytes) : sha256Final (sha256Add sha256Init d) = sha256 d := by
  rw [sha256Final, sha256Add, sha256Init, foldl_chunks_sha2Add_fresh (by decide), sha2Add_fresh_total, sha256]

/-- CLOSE after one ADD of d gives the hash of d (R409, R412). -/
theorem sha512Final_sha512Add_sha512Init (d : Bytes) : sha512Final (sha512Add sha512Init d) = sha512 d := by
  rw [sha512Final, sha512Add, sha512Init, foldl_chunks_sha2Add_fresh (by decide), sha2Add_fresh_total, sha512]

theorem sha256Final_of_holds {s : State} {d : Bytes} (h : s.sha256Holds d) : sha256Final s.sha256.ctx = sha256 d := by
  rw [sha256Holds_def, sha2Holds_iff (by decide)] at h
  rw [h]
  exact sha256Final_sha256Add_sha256Init d

theorem sha512Final_of_holds {s : State} {d : Bytes} (h : s.sha512Holds d) : sha512Final s.sha512.ctx = sha512 d := by
  rw [sha512Holds_def, sha2Holds_iff (by decide)] at h
  rw [h]
  exact sha512Final_sha512Add_sha512Init d

/-- Settles O29: INIT opens a sink that holds nothing, ADD appends to what it holds, and CLOSE gives the hash of that. -/
theorem sha2SinksHashTheWhole : Obligations.Sha2SinksHashTheWhole := by
  refine ⟨fun s t h => ?_, fun s t d hd h hok => ?_, fun s t d hwf hd h hok => ?_, fun ds => ?_,
    fun s t h => ?_, fun s t d hd h hok => ?_, fun s t d hwf hd h hok => ?_, fun ds => ?_⟩
  · obtain rfl := Host.Outcome.next.inj h
    exact sha2Holds_fresh (by decide)
  · obtain rfl := eq_work_of_exec h hok
    exact Sha2Holds.add (by decide) hd _
  · obtain rfl := eq_work_of_exec h hok
    rw [← sha256Final_of_holds hd]
    exact output_outputs _ _ hwf
  · exact (congrArg sha256Final (foldl_sha2Add_fresh (by decide) ds)).trans (sha256Final_sha256Add_sha256Init _)
  · obtain rfl := Host.Outcome.next.inj h
    exact sha2Holds_fresh (by decide)
  · obtain rfl := eq_work_of_exec h hok
    exact Sha2Holds.add (by decide) hd _
  · obtain rfl := eq_work_of_exec h hok
    rw [← sha512Final_of_holds hd]
    exact output_outputs _ _ hwf
  · exact (congrArg sha512Final (foldl_sha2Add_fresh (by decide) ds)).trans (sha512Final_sha512Add_sha512Init _)

/-! BLAKE2s, which holds a last full block back. -/

/-- Every byte string is whole blocks and a rest of at most a block, empty for the empty string only (R420). -/
theorem exists_whole_held (d : Bytes) :
    ∃ whole held, d = whole ++ held ∧ whole.length % 64 = 0 ∧ held.length ≤ 64 ∧ (d ≠ [] → 1 ≤ held.length) := by
  refine ⟨d.take (64 * blakeFull d.length), d.drop (64 * blakeFull d.length), (List.take_append_drop _ _).symm, ?_, ?_,
    fun hd => ?_⟩
  · rw [List.length_take_of_le (blakeFull_le _), Nat.mul_mod_right]
  · rw [List.length_drop, blakeFull]
    omega
  · have hpos : 0 < d.length := List.length_pos_of_ne_nil hd
    rw [List.length_drop, blakeFull]
    omega

/-- The blocks in front of what is held back are those the loop of R419 and R426 compresses. -/
theorem blakeFull_append {whole held : Bytes} {k : Nat} (hk : whole.length = 64 * k) (hle : held.length ≤ 64)
    (hpos : whole ++ held ≠ [] → 1 ≤ held.length) : blakeFull (whole ++ held).length = k := by
  have hlen : (whole ++ held).length = 64 * k + held.length := by rw [List.length_append, hk]
  have hempty : (whole ++ held).length = 0 ∨ 1 ≤ held.length :=
    (Nat.eq_zero_or_pos _).imp_right fun h => hpos (List.ne_nil_of_length_pos h)
  rw [blakeFull]
  omega

/-- ADD of whole blocks and what is held back on a fresh context compresses the blocks and keeps the rest (R426). -/
theorem blake2sAdd_blake2sInit_append {whole held : Bytes} (hwhole : whole.length % 64 = 0) (hle : held.length ≤ 64)
    (hpos : whole ++ held ≠ [] → 1 ≤ held.length) :
    blake2sAdd blake2sInit (whole ++ held) =
      ⟨((chunks 64 whole).foldl blakeBlock (blake2sStart, 0)).1, held,
        ((chunks 64 whole).foldl blakeBlock (blake2sStart, 0)).2⟩ := by
  obtain ⟨k, hk⟩ := Nat.dvd_of_mod_eq_zero hwhole
  simp only [blake2sAdd, blake2sInit, List.nil_append, blakeFull_append hk hle hpos]
  rw [pieces_append 64 k whole held hk.ge, ← chunks_of_mul 64 k (by decide) whole hk, ← hk, List.drop_left]

/-- The counter after whole blocks is their length (R419). -/
theorem foldl_chunks_blakeBlock_snd {whole : Bytes} (hwhole : whole.length % 64 = 0) (h : Hash8 32) :
    ((chunks 64 whole).foldl blakeBlock (h, 0)).2 = whole.length := by
  rw [foldl_blakeBlock_snd, length_chunks, ceilDiv]
  omega

/-- The context that holds the bytes d is the one a single ADD of d leaves after INIT, and no other (R420). -/
theorem blake2sHolds_iff (s : State) (d : Bytes) :
    s.blake2sHolds d ↔ s.blake2s = ⟨true, blake2sAdd blake2sInit d⟩ := by
  constructor
  · rintro ⟨hopen, hle, hpos, whole, hd, hlen, hmod, hht⟩
    have hfold : (s.blake2s.ctx.h, s.blake2s.ctx.t) = (chunks 64 whole).foldl blakeBlock (blake2sStart, 0) := hht
    rw [hd, blake2sAdd_blake2sInit_append (hlen ▸ hmod) hle (hd ▸ hpos), ← hfold, ← hopen]
  · intro h
    obtain ⟨whole, held, rfl, hwhole, hle, hpos⟩ := exists_whole_held d
    have hcount := foldl_chunks_blakeBlock_snd hwhole blake2sStart
    rw [blake2sAdd_blake2sInit_append hwhole hle hpos] at h
    rw [State.blake2sHolds, h]
    exact ⟨rfl, hle, hpos, whole, rfl, hcount.symm, hcount.symm ▸ hwhole, rfl⟩

/-- ADD of no bytes on a fresh context changes nothing. -/
theorem blake2sAdd_blake2sInit_nil : blake2sAdd blake2sInit [] = blake2sInit := rfl

/-- CLOSE after one ADD of d does what the hash of d does: the same loop, then the same last block (R419, R427). -/
theorem blake2sFinal_blake2sAdd_blake2sInit (d : Bytes) : blake2sFinal (blake2sAdd blake2sInit d) = blake2s d := rfl

/-- Settles O30: each command is a step of the sink function, by what a context that holds d is. -/
theorem blake2sSinkHashesTheWhole : Obligations.Blake2sSinkHashesTheWhole := by
  refine ⟨fun s t h => ?_, fun s t d hd h hok => ?_, fun s t d hwf hd h hok => ?_, fun ds => ?_,
    fun s hfit hopen hlong => ?_⟩
  · obtain rfl := Host.Outcome.next.inj h
    rw [blake2sHolds_iff, blake2sAdd_blake2sInit_nil]
    rfl
  · obtain rfl := eq_work_of_exec h hok
    rw [blake2sHolds_iff] at hd ⊢
    rw [← blake2sAdd_add]
    simp [State.work, hd]
  · obtain rfl := eq_work_of_exec h hok
    rw [blake2sHolds_iff] at hd
    rw [← blake2sFinal_blake2sAdd_blake2sInit]
    simp only [State.work, hd]
    exact output_outputs _ _ hwf
  · rw [foldl_add_flatten blake2sAdd_add blake2sAdd_blake2sInit_nil, blake2sFinal_blake2sAdd_blake2sInit]
  · exact ⟨_, exec_raise .blake2sAdd s _ (addChecks_tooLong hfit hopen (decide_eq_true hlong)), raise_fails s _⟩

/-! The commands. -/

/-- The SHA-2 context after an ADD of a region, its count moved by the region's length (R401, R411). -/
theorem sha2Add_input {w : Nat} (blk : Nat) (comp : Hash8 w → Bytes → Hash8 w) (c : Sha2Ctx w) (s : State) (r : Region) :
    sha2Add blk comp c (s.input r) =
      ⟨(pieces blk ((c.buf ++ s.input r).length / blk) (c.buf ++ s.input r)).foldl comp c.h,
        (c.buf ++ s.input r).drop (blk * ((c.buf ++ s.input r).length / blk)), c.total + r.len⟩ := by
  rw [sha2Add, length_input]

/-- The BLAKE2s context after an ADD, its counter moved by the blocks compressed (R426). -/
theorem blake2sAdd_eq (c : Blake2sCtx) (d : Bytes) :
    blake2sAdd c d =
      ⟨((pieces 64 (blakeFull (c.buf ++ d).length) (c.buf ++ d)).foldl blakeBlock (c.h, c.t)).1,
        (c.buf ++ d).drop (64 * blakeFull (c.buf ++ d).length), c.t + 64 * blakeFull (c.buf ++ d).length⟩ := by
  simp only [blake2sAdd, foldl_blakeBlock_snd, length_pieces]

/-- Settles O27: the checks pass, and the work is the sink function written out. -/
theorem hashAddsComplete : Obligations.HashAddsComplete := by
  refine fun s hfit => ⟨fun hopen hlimit => ?_, fun hopen hlimit => ?_, fun hopen hlimit => ?_⟩
  · have hpass := addChecks_pass hfit hopen (decide_eq_false (Nat.not_le_of_lt hlimit))
    refine ⟨_, exec_work .sha256Add s hpass, ?_⟩
    simp only [State.work, sha256Add, sha2Add_input]
    exact finish_succeeds _ 0
  · have hpass := addChecks_pass hfit hopen (decide_eq_false (Nat.not_le_of_lt hlimit))
    refine ⟨_, exec_work .sha512Add s hpass, ?_⟩
    simp only [State.work, sha512Add, sha2Add_input]
    exact finish_succeeds _ 0
  · have hpass := addChecks_pass hfit hopen (decide_eq_false (Nat.not_le_of_lt hlimit))
    refine ⟨_, exec_work .blake2sAdd s hpass, ?_⟩
    simp only [State.work, blake2sAdd_eq]
    exact finish_succeeds _ 0

/-- Settles O28: the checks pass, and the work outputs the digest of the context and closes it. -/
theorem hashClosesComplete : Obligations.HashClosesComplete := by
  refine fun s hwf hfit => ⟨fun hopen hcap => ?_, fun hopen hcap => ?_, fun hopen hcap => ?_⟩
  · exact ⟨_, exec_work .sha256Close s (closeChecks_pass hfit hopen hcap), output_outputs _ _ hwf,
      by simp [State.work]⟩
  · exact ⟨_, exec_work .sha512Close s (closeChecks_pass hfit hopen hcap), output_outputs _ _ hwf,
      by simp [State.work]⟩
  · exact ⟨_, exec_work .blake2sClose s (closeChecks_pass hfit hopen hcap), output_outputs _ _ hwf,
      by simp [State.work]⟩

end Sys2Proof.Machine

namespace Sys2Proof.Machine

/-! ## HMAC and PBKDF2

An open HMAC context is determined by the key and the bytes added since INIT: its inner hash context is the one that a
single ADD of ikey and those bytes leaves on a fresh context. -/

/-! The generic hash interface. -/

/-- HFinal after one HAdd of m on a fresh context is the hash of m (R421). -/
theorem HashAlg.final_add_init (h : HashAlg) (m : Bytes) : (h.init.add m).final = h.hash m := by
  cases h with
  | sha256 => exact sha256Final_sha256Add_sha256Init m
  | sha512 => exact sha512Final_sha512Add_sha512Init m
  | blake2s => exact blake2sFinal_blake2sAdd_blake2sInit m

/-- The limit HMAC_ADD checks is that of the hash of its inner context (R446). -/
theorem HashCtx.tooLong_eq_overflows (c : HashCtx) (n : Nat) : c.tooLong n = c.overflows n := by cases c <;> rfl

/-! HMAC_INIT with each hash select. -/

/-- The three HMAC_INIT commands are those of `hmacInitInstr` (R144, R162). -/
theorem eq_hmacInitInstr {i : Instr} {h : HashAlg}
    (hi : (i = .hmacInitSha256 ∧ h = .sha256) ∨ (i = .hmacInitSha512 ∧ h = .sha512) ∨
      (i = .hmacInitBlake2s ∧ h = .blake2s)) : i = hmacInitInstr h := by
  rcases hi with ⟨rfl, rfl⟩ | ⟨rfl, rfl⟩ | ⟨rfl, rfl⟩ <;> rfl

theorem work_hmacInitInstr (s : State) (h : HashAlg) : s.work (hmacInitInstr h) = s.hmacInitWork h := by
  cases h <;> rfl

theorem checks_hmacInitInstr (s : State) (h : HashAlg) :
    s.checks (hmacInitInstr h) = [s.addressCheck [s.keyRegion]] := by
  cases h <;> rfl

/-! The sink. -/

/-- The context that holds the bytes d under a key is the one of HMAC_INIT with ikey and d in its inner hash, and no
other (R442). -/
theorem hmacHolds_iff (s : State) (h : HashAlg) (key d : Bytes) :
    s.hmacHolds h key d ↔ s.hmac = ⟨true, ⟨h.init.add (hmacIkey h key ++ d), hmacOkey h key⟩⟩ := by
  constructor
  · rintro ⟨hopen, hinner, hokey⟩
    rw [hmacIkey, hmacOkey, ← hopen, ← hinner, ← hokey]
  · intro hs
    rw [State.hmacHolds, hs]
    exact ⟨rfl, rfl, rfl⟩

/-- The output of HMAC_CLOSE on the context that holds d is HMAC of d (R440, R447). -/
theorem hmacFinal_add_init (h : HashAlg) (key d : Bytes) :
    hmacFinal ⟨h.init.add (hmacIkey h key ++ d), hmacOkey h key⟩ = hmac h key d := by
  rw [hmacFinal, HashCtx.alg_add, h.alg_init, h.final_add_init, hmac]

/-- Adding the pieces of a message one by one after HMAC_INIT adds ikey and the whole message (R442). -/
theorem foldl_add_hmacInit (h : HashAlg) (key : Bytes) (ds : List Bytes) :
    ds.foldl HashCtx.add (hmacInit h key).inner = h.init.add (hmacIkey h key ++ ds.flatten) := by
  have hnil : (h.init.add (hmacIkey h key)).add [] = h.init.add (hmacIkey h key) := by
    rw [HashCtx.add_add, List.append_nil]
  rw [hmacInit, HashCtx.foldl_add _ hnil, HashCtx.add_add]

/-- Settles O32: each command is a step of the context that holds the bytes added. -/
theorem hmacSinkIsHmac : Obligations.HmacSinkIsHmac := by
  refine ⟨fun i h s t hi hexec hok => ?_, fun h s t key d hd hexec hok => ?_,
    fun h s t key d hwf hd hexec hok => ?_, fun h key ds => ?_⟩
  · obtain rfl := eq_hmacInitInstr hi
    obtain rfl := eq_work_of_exec hexec hok
    rw [work_hmacInitInstr, hmacHolds_iff, List.append_nil]
    rfl
  · obtain rfl := eq_work_of_exec hexec hok
    rw [hmacHolds_iff] at hd ⊢
    rw [← List.append_assoc, ← HashCtx.add_add]
    simp [State.work, hd]
  · obtain rfl := eq_work_of_exec hexec hok
    rw [hmacHolds_iff] at hd
    simp only [State.work, hd, hmacFinal_add_init]
    exact output_outputs _ _ hwf
  · rw [foldl_add_hmacInit]
    exact hmacFinal_add_init h key ds.flatten

/-- Settles O31: the checks pass, and the work is the sink function written out. -/
theorem hmacCommandsComplete : Obligations.HmacCommandsComplete := by
  refine fun s => ⟨fun hfit i h hi => ?_, fun hfit hopen hlimit => ?_, fun hwf hfit hopen hcap => ?_⟩
  · obtain rfl := eq_hmacInitInstr hi
    have hpass : firstError (s.checks (hmacInitInstr h)) = none := by
      simp [checks_hmacInitInstr, addressCheck_pass s _ hfit]
    refine ⟨_, exec_work _ s hpass, ?_⟩
    rw [work_hmacInitInstr]
    exact finish_succeeds _ 0
  · have hpass := addChecks_pass hfit hopen ((HashCtx.tooLong_eq_overflows _ _).trans hlimit)
    exact ⟨_, exec_work .hmacAdd s hpass, finish_succeeds _ 0⟩
  · exact ⟨_, exec_work .hmacClose s (closeChecks_pass hfit hopen hcap),
      output_of_capacity (s := { s with hmac := .closed .zero }) hwf (length_hmacFinal _) hcap⟩

/-! PBKDF2. -/

/-- The checks of PBKDF2 pass (R450). -/
theorem pbkdf2Checks_pass {s : State} (hfit : s.allFit [s.keyRegion, s.nonceRegion, s.dstRegion])
    (hiter : s.snap.iter ≠ 0) (hcap : ceilDiv s.snap.arg.toNat 8 ≤ s.snap.dstLen.toNat) :
    firstError s.pbkdf2Checks = none := by
  have hcount : s.snap.iter.toNat ≠ 0 := fun h0 => hiter (BitVec.eq_of_toNat_eq h0)
  simp [State.pbkdf2Checks, addressCheck_pass s _ hfit, hcount, capacityCheck_pass s _ hcap]

/-- Settles O33: with each hash the checks are the same, and the work outputs PBKDF2 over that hash. -/
theorem pbkdf2Completes : Obligations.Pbkdf2Completes := by
  intro s hwf hfit hiter hcap i h hi
  have hpass : firstError s.pbkdf2Checks = none := pbkdf2Checks_pass hfit hiter hcap
  have hexec : exec i s = .next (s.pbkdf2Work h) := by
    rcases hi with ⟨rfl, rfl⟩ | ⟨rfl, rfl⟩ | ⟨rfl, rfl⟩
    · exact exec_work .pbkdf2Sha256 s hpass
    · exact exec_work .pbkdf2Sha512 s hpass
    · exact exec_work .pbkdf2Blake2s s hpass
  exact ⟨_, hexec, output_of_capacity hwf (length_pbkdf2 ..) hcap⟩

/-- The loop of R443 from `U_(j+1)` on adds the n values after it to T. -/
theorem pbkdf2Loop_eq_foldl (h : HashAlg) (p salt : Bytes) (i n j : Nat) (t : Bytes) :
    pbkdf2Loop h p n (pbkdf2U h p salt i (j + 1)) t =
      (List.range' (j + 2) n).foldl (fun t k => xorBytes t (pbkdf2U h p salt i k)) t := by
  induction n generalizing j t with
  | zero => rfl
  | succ n ih =>
    have hnext : hmac h p (pbkdf2U h p salt i (j + 1)) = pbkdf2U h p salt i (j + 2) := rfl
    rw [pbkdf2Loop, hnext, ih, List.range'_succ, List.foldl_cons]

/-- Byte j of PBKDF2 is in block `j div L`, counted from 1 (R443). -/
theorem getD_pbkdf2 (h : HashAlg) (p salt : Bytes) (c bits : Nat) {j : Nat} (hj : j < ceilDiv bits 8) :
    (pbkdf2 h p salt c bits).getD j 0 = (pbkdf2Block h p salt c (j / h.digestLen + 1)).getD (j % h.digestLen) 0 := by
  have hroom := ceilDiv_mul_ge (ceilDiv bits 8) h.digestLen h.digestLen_pos
  have hblock : j / h.digestLen < ceilDiv (ceilDiv bits 8) h.digestLen :=
    Nat.div_lt_of_lt_mul (by omega)
  have hindex : (List.range' 1 (ceilDiv (ceilDiv bits 8) h.digestLen)).getD (j / h.digestLen) 0 =
      j / h.digestLen + 1 := by
    rw [List.getD_eq_getElem _ _ (by simpa using hblock), List.getElem_range', Nat.one_mul, Nat.add_comm]
  rw [pbkdf2, getD_take_of_lt _ hj,
    getD_flatMap _ _ h.digestLen h.digestLen_pos (by simp) 0 j (by rw [List.length_range']; omega), hindex]

/-- Settles O34: a block is its loop, begun with T at `U_1`. -/
theorem pbkdf2IsXorOfIterations : Obligations.Pbkdf2IsXorOfIterations := fun h p salt c bits _ =>
  ⟨length_pbkdf2 h p salt c bits, fun _ hj => getD_pbkdf2 h p salt c bits hj,
    fun i => pbkdf2Loop_eq_foldl h p salt i (c - 1) 0 (pbkdf2U h p salt i 1)⟩

end Sys2Proof.Machine

namespace Sys2Proof.Machine

/-! ## Which error a command reports

Every command's checks are the tests of 60_exceptions.md R474 for the errors it lists, in the order of the steps. -/

/-- The errors a command finds only during its work: step 10 of R474, and BufferTooShort for the unpadded length of
AES_CBC_DEC (42_aes_modes.md R281). -/
def workErrors : Instr → List ErrCode
  | .aesCbcDec => [.invalidPadding, .bufferTooShort]
  | .c20p1305Dec | .xc20p1305Dec => [.authenticationFailure]
  | _ => []

/-- An error a command's checks test for: one of its row of R475 that is not left to the work. -/
def isCheckError (i : Instr) (e : ErrCode) : Bool := decide (e ∈ possibleErrors i ∧ e ∉ workErrors i)

/-- The test of R474 for one error. -/
def State.checkFor (s : State) (i : Instr) (e : ErrCode) : Check := (s.applies i e, e)

/-- An error that a command does not check for never applies to it. -/
theorem isCheckError_of_applies {s : State} {i : Instr} {e : ErrCode} (h : s.applies i e = true) :
    isCheckError i e = true := by
  have hcase : (isCheckError i e || !s.applies i e) = true := by cases i <;> cases e <;> rfl
  simpa [h] using hcase

/-! The checks that the model and R474 write differently. -/

/-- A region fails the bounds check when it passes the end of DMEM (20_memory.md R105). -/
theorem addressCheck_eq_checkFor (s : State) (i : Instr) :
    s.addressCheck (commandRegions s i) = s.checkFor i .addressError := by
  simp only [State.addressCheck, State.checkFor, State.applies, Region.fits, ← decide_not, Nat.not_le]

/-- A schedule is not valid when it has no rounds (10_state.md R53). -/
theorem not_valid_eq (k : Schedule) : (!k.valid) = (k.nr.nr == 0) := by simp [Schedule.valid, bne]

/-- The source of AES_CBC_DEC is ragged (42_aes_modes.md R281). -/
theorem raggedCheck_eq_checkFor (s : State) : s.raggedCheck = s.checkFor .aesCbcDec .invalidArgument := by
  simp only [State.raggedCheck, Bool.decide_or, ne_eq, decide_not]
  rfl

/-- A nonce length of 4 to 16 bytes, as bounds and as a list (42_aes_modes.md R284). -/
theorem nonceInc_lengths (n : Nat) :
    decide (n < 4 ∨ n > 16) = !([4, 5, 6, 7, 8, 9, 10, 11, 12, 13, 14, 15, 16] : List Nat).contains n := by
  rw [Bool.eq_iff_iff]
  simp
  omega

/-- The checks a command makes are the tests of R474 for its check errors, in the order of the steps. -/
theorem checks_eq (s : State) (i : Instr) :
    s.checks i = (checkOrder.filter (isCheckError i)).map (s.checkFor i) := by
  have cons_address {cs ds : List Check} (h : cs = ds) :
      s.addressCheck (commandRegions s i) :: cs = s.checkFor i .addressError :: ds :=
    congrArg₂ List.cons (addressCheck_eq_checkFor s i) h
  cases i
  case nop | zeroize | sha256Init | sha512Init | blake2sInit => rfl
  case aesEncBlock | aesDecBlock =>
    exact cons_address (congrArg (fun b => (b, ErrCode.keyNotLoaded) :: _) (not_valid_eq _))
  case aesCbcDec =>
    exact cons_address (congrArg
      (fun c => [s.aadCheck, s.keyLenCheck aesKeyLens, s.nonceLenCheck [16], s.zeroOffsetCheck, c])
      (raggedCheck_eq_checkFor s))
  case nonceInc =>
    exact cons_address (congrArg (fun b => (b, ErrCode.invalidNonceLength) :: _) (nonceInc_lengths _))
  case hmacAdd =>
    exact cons_address (congrArg (fun b => [(!s.hmac.isOpen, ErrCode.sinkNotOpen), (b, .invalidArgument)])
      (HashCtx.tooLong_eq_overflows s.hmac.ctx.inner _))
  all_goals exact cons_address rfl

/-- The first error of a list of tests is the first code whose test applies. -/
theorem firstError_map_checkFor (s : State) (i : Instr) (es : List ErrCode) :
    firstError (es.map (s.checkFor i)) = es.find? (s.applies i) := by
  rw [firstError, List.find?_map, Option.map_map]
  exact Option.map_id'

/-- A command's checks report the first error of R474 that applies. -/
theorem firstError_checks (s : State) (i : Instr) : firstError (s.checks i) = s.firstApplicable i := by
  have htests : (fun e => decide (isCheckError i e = true ∧ s.applies i e = true)) = s.applies i := by
    funext e
    rw [Bool.eq_iff_iff]
    simpa using isCheckError_of_applies
  rw [checks_eq, firstError_map_checkFor, List.find?_filter, htests, State.firstApplicable]

/-- An AEAD decryption whose checks have passed leaves code 0 or AuthenticationFailure (44_poly1305_aead.md R366). -/
theorem aeadDecrypt_errcode (s : State) (k n : Bytes) :
    (s.aeadDecrypt k n).errcode = .success ∨ (s.aeadDecrypt k n).errcode ∈ [ErrCode.authenticationFailure] := by
  rcases aeadDecrypt_cases s k n with h | ⟨m, -, h⟩ <;> simp [h]

/-- So does AES_CBC_DEC with the two errors of its work (42_aes_modes.md R281). -/
theorem cbcDecWork_errcode (s : State) :
    s.cbcDecWork.errcode = .success ∨ s.cbcDecWork.errcode ∈ [ErrCode.invalidPadding, .bufferTooShort] := by
  rcases cbcDecWork_cases s with h | h | ⟨p, -, h⟩ <;> simp [h]

/-- Once its checks have passed, a command completes with code 0 or an error of its work. -/
theorem work_errcode (s : State) (i : Instr) :
    (s.work i).errcode = .success ∨ (s.work i).errcode ∈ workErrors i := by
  cases i
  case aesCbcDec => exact cbcDecWork_errcode s
  case c20p1305Dec | xc20p1305Dec => exact aeadDecrypt_errcode s _ _
  all_goals exact .inl rfl

theorem workErrors_subset (i : Instr) : workErrors i ⊆ possibleErrors i := by
  cases i <;> decide

theorem workErrors_eq_nil {i : Instr} (h : failsInWork i = false) : workErrors i = [] := by
  cases i
  case aesCbcDec | c20p1305Dec | xc20p1305Dec => cases h
  all_goals rfl

/-! ## The completion marks -/

/-- ERR marks exactly the completions with an error code, and every completion leaves the core IDLE with DONE. -/
theorem Completes.marks {s t : State} {i : Instr} (h : Completes s i t) :
    t.phase = .idle ∧ t.done = true ∧ (t.err = true ↔ t.errcode ≠ .success) := by
  cases h with
  | fails e he => simp [he]
  | finishes => simp
  | outputs => simp
  | seals => simp [State.seal]

/-- A completion with ERR = 1 is an error completion. -/
theorem Completes.fails_of_err {s t : State} {i : Instr} (h : Completes s i t) (herr : t.err = true) :
    Fails s t.errcode t ∧ t.errcode ≠ .success := by
  cases h with
  | fails e he => exact ⟨raise_fails s e, he⟩
  | finishes => cases herr
  | outputs => cases herr
  | seals => cases herr

/-- Settles O39: a reported error is that of the first check that applies, and the work of the other commands ends with
code 0. -/
theorem firstErrorIsReported : Obligations.FirstErrorIsReported := by
  intro i s
  rw [← firstError_checks]
  refine ⟨fun e he => ⟨_, exec_raise i s e he, raise_fails s e⟩, fun hpass hwork => ?_⟩
  have hexec := exec_work i s hpass
  have hcode : (s.work i).errcode = .success := by simpa [workErrors_eq_nil hwork] using work_errcode s i
  obtain ⟨-, -, hmark⟩ := (exec_completes hexec).marks
  exact ⟨_, hexec, hcode, by simpa [hcode] using hmark⟩

/-- Settles O40: the code is that of a check or of the work. -/
theorem onlyListedErrors : Obligations.OnlyListedErrors := by
  intro i s t h
  cases hcheck : firstError (s.checks i) with
  | none =>
    rw [exec_work i s hcheck] at h
    obtain rfl := Host.Outcome.next.inj h
    exact (work_errcode s i).imp_right (workErrors_subset i ·)
  | some e =>
    rw [exec_raise i s e hcheck] at h
    obtain rfl := Host.Outcome.next.inj h
    rw [firstError_checks] at hcheck
    have hlisted := isCheckError_of_applies (List.find?_some hcheck)
    exact .inr (of_decide_eq_true hlisted).1

/-- Settles O41: an illegal value completes with IllegalCommand, and a command with ERR = 1 has failed. -/
theorem failedCommandsChangeNothing : Obligations.FailedCommandsChangeNothing := by
  intro w s t h herr
  rcases complete_cases s w with ⟨i, -, hc⟩ | ⟨e, -, hc⟩ <;> rw [hc] at h
  · exact (exec_completes h).fails_of_err herr
  · obtain rfl := Host.Outcome.next.inj h
    exact ⟨raise_fails s _, by simp⟩

/-! ## Every step answers, and a running command ends -/

/-- The completion of any CMD value answers an IDLE state. -/
theorem complete_next_idle (s : State) (cmd : Word) : ∃ t, s.complete cmd = .next t ∧ t.phase = .idle := by
  rcases complete_cases s cmd with ⟨i, -, hc⟩ | ⟨e, -, hc⟩ <;> rw [hc]
  · obtain ⟨hidle, -, -⟩ := (exec_completes (exec_eq i s)).marks
    exact ⟨_, exec_eq i s, hidle⟩
  · exact ⟨_, rfl, State.raise_phase s _⟩

/-- Settles O42, by the three kinds of step and the marks of a completion. -/
theorem everyStepAnswers : Obligations.EveryStepAnswers := by
  refine ⟨fun s => ?_, fun i s => ⟨_, exec_eq i s, (exec_completes (exec_eq i s)).marks⟩⟩
  rcases hp : s.phase with _ | ⟨snap, _ | left⟩
  · exact ⟨_, step_idle s hp⟩
  · obtain ⟨t, ht, -⟩ := complete_next_idle s snap.cmd
    exact ⟨t, (step_complete s snap hp).trans ht⟩
  · exact ⟨_, step_pending s snap left hp⟩

/-- A run begins with its first step. -/
theorem run_succ {M : Host.Core} {s u : M.State} (h : M.step s = .next u) (k : Nat) :
    M.run (k + 1) s = M.run k u := by
  rw [Host.Core.run, h]

/-- While a command runs the host's turn keeps its phase, or resets the core to IDLE (70_reset_and_hazards.md R521). -/
theorem pending_phase (s : State) (snap : Snapshot) (left : Nat) :
    (s.pending snap left).phase = .busy snap left ∨ (s.pending snap left).phase = .idle := by
  rcases hostTurn_keepsInternal_or_reset { s with phase := .busy snap left } with hkeeps | ⟨v, rest, -, -, hreset⟩
  · obtain ⟨-, -, -, -, -, -, -, -, -, -, -, hbusy⟩ := hkeeps
    obtain ⟨-, -, -, hphase⟩ := hbusy rfl
    exact .inl hphase
  · exact .inr (congrArg State.phase hreset)

/-- Settles O43, by induction on the steps left before the completion. -/
theorem busyEnds : Obligations.BusyEnds := by
  intro s snap left
  induction left generalizing s with
  | zero =>
    intro hp
    obtain ⟨t, ht, hidle⟩ := complete_next_idle s snap.cmd
    exact ⟨1, t, le_rfl, run_succ (M := core) ((step_complete s snap hp).trans ht) 0, hidle⟩
  | succ left ih =>
    intro hp
    have hstep := step_pending s snap left hp
    rcases pending_phase s snap left with hbusy | hidle
    · obtain ⟨k, t, hk, hrun, hidle⟩ := ih _ hbusy
      exact ⟨k + 1, t, Nat.succ_le_succ hk, (run_succ (M := core) hstep k).trans hrun, hidle⟩
    · exact ⟨1, _, by omega, run_succ (M := core) hstep 0, hidle⟩

/-! ## The interrupt output -/

/-- irq is low while neither DONE nor ERR is set (60_exceptions.md R480). -/
theorem irq_of_clear {s : State} (hdone : s.done = false) (herr : s.err = false) : s.irq = false := by
  simp [State.irq, hdone, herr]

/-- Settles O59, from DONE and ERR after a completion and after each write. -/
theorem irqIsDerived : Obligations.IrqIsDerived := by
  intro s
  have hcmd (v : Word) : s.hostWrite .w32 0x014 v = s.writeReg .cmd v := hostWrite_reg s v (by decide) (by decide) rfl
  have hstatus (v : Word) : s.hostWrite .w32 0x00C v = s.writeStatus v :=
    hostWrite_reg s (r := .status) v (by decide) (by decide) rfl
  have hctrl (v : Word) : s.hostWrite .w32 0x008 v = s.writeCtrl v :=
    hostWrite_reg s (r := .ctrl) v (by decide) (by decide) rfl
  refine ⟨rfl, fun i t h => ?_, fun v hidle => ?_, ?_, ?_, rfl⟩
  · obtain ⟨-, hdone, -⟩ := (exec_completes h).marks
    obtain ⟨-, hen, -⟩ := commandsLeaveTheHostsRegisters i s t h
    simp [State.irq, hdone, hen]
  · have haccept : s.writeReg .cmd v = s.accept v := by simp [State.writeReg, s.not_busy_iff.mpr hidle]
    rw [hcmd, haccept]
    exact irq_of_clear rfl rfl
  · rw [hstatus]
    exact irq_of_clear (by simp) (by simp)
  · rw [hctrl]
    simp [State.writeCtrl, State.irq]

end Sys2Proof.Machine

namespace Sys2Proof.Machine

/-! ## Accesses to the registers, by name -/

/-- The registers the register map holds: each schedule window has 60 words (10_state.md R45, R46). -/
def Reg.inMap : Reg → Prop
  | .kse i | .ksd i => i < 60
  | _ => True

/-- The register map finds each of its registers at that register's offset, an aligned one below the DMEM window. -/
theorem ofOffset_offset {r : Reg} (hr : r.inMap) :
    r.offset < dmemBase ∧ r.offset % 4 = 0 ∧ Reg.ofOffset r.offset = some r := by
  cases r with
  | id | version | ctrl | status | errcode | cmd | outLen | ksRounds => decide
  | op r =>
    obtain ⟨hoff, h4⟩ := opOffset_aligned r
    exact ⟨hoff, h4, ofOffset_opOffset r⟩
  | kse i =>
    have hi : i < 60 := hr
    rw [Reg.offset, Reg.ofOffset, dmemBase, if_neg (by omega), if_pos (by omega)]
    exact ⟨by omega, by omega, by simp⟩
  | ksd i =>
    have hi : i < 60 := hr
    rw [Reg.offset, Reg.ofOffset, dmemBase, if_neg (by omega), if_neg (by omega), if_pos (by omega)]
    exact ⟨by omega, by omega, by simp⟩

/-- A 32-bit read at a register's offset returns its current value and changes nothing, BUSY or not (R30, R522). -/
theorem hostRead_offset (s : State) {r : Reg} (hr : r.inMap) : s.hostRead .w32 r.offset = (s.readReg r, s) := by
  obtain ⟨hoff, h4, hat⟩ := ofOffset_offset hr
  exact hostRead_reg s hoff h4 hat

/-- A 32-bit write at a register's offset does what the register's rule says. -/
theorem hostWrite_offset (s : State) {r : Reg} (hr : r.inMap) (v : Word) :
    s.hostWrite .w32 r.offset v = s.writeReg r v := by
  obtain ⟨hoff, h4, hat⟩ := ofOffset_offset hr
  exact hostWrite_reg s v hoff h4 hat

/-- Settles O51, from the two branches of the rule of CTRL. -/
theorem ctrlWriteResetsOrSetsIrqEn : Obligations.CtrlWriteResetsOrSetsIrqEn := by
  intro s v
  have hctrl : s.hostWrite .w32 0x008 v = s.writeCtrl v := hostWrite_offset s (r := .ctrl) trivial v
  rw [hctrl, State.writeCtrl]
  refine ⟨fun hreset => ?_, fun hkeep => ?_⟩
  · rw [if_pos hreset, State.softReset]
  · rw [if_neg (Bool.eq_false_iff.mp hkeep)]

/-! ## Accesses while BUSY -/

/-- While BUSY neither DONE nor ERR is set (R59, 70_reset_and_hazards.md R522). -/
theorem marks_of_busy {s : State} (hb : s.busy = true) (hok : s.phaseOk = true) : s.done = false ∧ s.err = false := by
  cases hp : s.phase with
  | idle => exact absurd hp ((busy_iff_not_idle s).mp hb)
  | busy snap left =>
    simp only [State.phaseOk, hp, Bool.and_eq_true, Bool.not_eq_true'] at hok
    obtain ⟨⟨-, hdone⟩, herr⟩ := hok
    exact ⟨hdone, herr⟩

/-- While BUSY only CTRL and STATUS take a write; every other register refuses it (R522, 92_eei_decisions.md D46). -/
theorem writeReg_busy {s : State} (hb : s.busy = true) {r : Reg} (hctrl : r ≠ .ctrl) (hstatus : r ≠ .status)
    (v : Word) : s.writeReg r v = s.refuseAccess := by
  cases r with
  | ctrl => exact absurd rfl hctrl
  | status => exact absurd rfl hstatus
  | cmd | op => simp [State.writeReg, hb]
  | id | version | errcode | outLen | ksRounds | kse | ksd => rw [writeReg_readOnly s rfl, if_pos hb]

/-- The offsets of the registers other than CTRL and STATUS. -/
theorem ofOffset_notCtrlStatus {off : Nat} (h4 : off % 4 = 0)
    (h : (0x020 ≤ off ∧ off ≤ 0x058) ∨ off ∈ [0x000, 0x004, 0x010, 0x014, 0x018, 0x01C] ∨
      (0x100 ≤ off ∧ off < 0x1F0) ∨ (0x200 ≤ off ∧ off < 0x2F0)) :
    off < dmemBase ∧ ∃ r, Reg.ofOffset off = some r ∧ r ≠ .ctrl ∧ r ≠ .status := by
  by_cases hop : 0x020 ≤ off ∧ off ≤ 0x058
  · obtain ⟨hlo, hhi⟩ := hop
    obtain ⟨r, hr, -⟩ := ofOffset_op h4 hlo hhi
    exact ⟨hhi.trans_lt (by decide), .op r, hr, nofun, nofun⟩
  by_cases hcmd : off = 0x014
  · subst hcmd
    exact ⟨by decide, .cmd, rfl, nofun, nofun⟩
  have hro : off ∈ [0x000, 0x004, 0x010, 0x018, 0x01C] ∨
      (off % 4 = 0 ∧ ((0x100 ≤ off ∧ off < 0x1F0) ∨ (0x200 ≤ off ∧ off < 0x2F0))) := by
    simp only [List.mem_cons, List.not_mem_nil, or_false] at h ⊢
    omega
  obtain ⟨hoff, -, r, hr, hreg⟩ := ofOffset_readOnly hro
  refine ⟨hoff, r, hr, ?_, ?_⟩ <;>
    (rintro rfl; cases hreg)

/-- The form R103 and R104 ask for, by the address in DMEM: aligned to the size and inside DMEM to the last byte. -/
theorem dmemAccessOk_iff (s : State) (w : Width) (a : Nat) :
    s.dmemAccessOk w (dmemBase + a) = true ↔ a % w.bytes = 0 ∧ a + w.bytes ≤ s.params.dmemSize := by
  have hbase : w.bytes ∣ dmemBase := by cases w <;> decide
  rw [State.dmemAccessOk, decide_eq_true_eq, Nat.add_assoc, Nat.add_le_add_iff_left, ← Nat.dvd_iff_mod_eq_zero,
    ← Nat.dvd_iff_mod_eq_zero, Nat.dvd_add_right hbase]

/-- While BUSY a DMEM read uses up one draw, and sets WERR when it does not have the form of R104 (log entry 8). -/
theorem afterBusyRead_dmem (s : State) (w : Width) (a : Nat) :
    s.afterBusyRead w (dmemBase + a) =
      if a % w.bytes = 0 ∧ a + w.bytes ≤ s.params.dmemSize then { s with draws := s.draws + 1 }
      else { s with werr := true, draws := s.draws + 1 } := by
  split
  · next hform => simp [State.afterBusyRead, (dmemAccessOk_iff s w a).mpr hform]
  · next hform =>
    have hbad : s.dmemAccessOk w (dmemBase + a) = false := Bool.eq_false_iff.mpr (mt (dmemAccessOk_iff s w a).mp hform)
    simp [State.afterBusyRead, hbad]

/-- While BUSY a DMEM write is refused, and a DMEM read returns the next draw cut to its width (R522). -/
theorem access_dmem_busy {s : State} (hb : s.busy = true) (w : Width) {a : Nat} (v : Word)
    (ha : a < s.params.dmemSize) :
    s.hostWrite w (dmemBase + a) v = s.refuseAccess ∧
      s.hostRead w (dmemBase + a) =
        (w.truncate (Config.busyDmemRead s.draws), s.afterBusyRead w (dmemBase + a)) := by
  have hlow : ¬ dmemBase + a < dmemBase := by omega
  have hwin : s.inWindow (dmemBase + a) = true := decide_eq_true ⟨by omega, by omega⟩
  rw [State.hostRead, State.hostWrite, if_neg hlow, if_neg hlow, if_pos hwin, if_pos hwin, if_pos hb, if_pos hb]
  exact ⟨rfl, rfl⟩

/-- Settles O55: the reads register by register, then the marks, the register map and the window while BUSY. -/
theorem accessesWhileBusy : Obligations.AccessesWhileBusy := by
  intro s
  have hread (r : Reg) (hr : r.inMap) := hostRead_offset s hr
  have hop (r : OpReg) := hread (.op r) trivial
  refine ⟨hread .id trivial, hread .version trivial, hread .ctrl trivial, hread .status trivial,
    hread .errcode trivial, hread .cmd trivial, hread .outLen trivial, hread .ksRounds trivial,
    hop .keyAddr, hop .keyLen, hop .nonceAddr, hop .nonceLen, hop .aadAddr, hop .aadLen, hop .srcAddr, hop .srcLen,
    hop .dstAddr, hop .dstLen, hop .tagAddr, hop .ksiLo, hop .ksiHi, hop .arg, hop .iter,
    fun i hi => ⟨hread (.kse i) hi, hread (.ksd i) hi⟩, fun hb hok => ?_,
    fun hb off v h4 => ⟨fun hreg => ?_, fun hres => ?_⟩, fun hb w a v ha => ?_⟩
  · obtain ⟨hdone, herr⟩ := marks_of_busy hb hok
    simp only [getLsbD_statusWord]
    simp [hb, hdone, herr]
  · obtain ⟨hoff, r, hr, hctrl, hstatus⟩ := ofOffset_notCtrlStatus h4 hreg
    rw [hostWrite_reg s v hoff h4 hr, writeReg_busy hb hctrl hstatus, State.refuseAccess]
  · exact (access_reserved s v (show off < 0x10000 by omega) h4 (ofOffset_reserved hres)).symm
  · rw [← afterBusyRead_dmem]
    exact access_dmem_busy hb w v ha

end Sys2Proof.Machine
